-- ==== Sys2Proof/Word.lean ====
section
/-! DEFINITION. The word types of the block (spec 00_scope.md R8, R9, R10): a 32-bit command or status word, bytes,
2-bit symbols, and finite sequences of them. Numbers without a width are `Nat`, exact and never wrapping (R9). -/

namespace Sys2Proof

/-- A 32-bit word: a command word (30_encoding.md R91) or STATUS (10_state.md R23). -/
abbrev Word := BitVec 32

/-- `Byte` of 00_scope.md R9: unsigned, 8 bits. -/
abbrev Byte := BitVec 8

/-- `Sym` of 00_scope.md R9: unsigned, 2 bits. -/
abbrev Sym := BitVec 2

/-- `Bytes` of 00_scope.md R10: index 0 is the first byte of the file or frame. -/
abbrev Bytes := List Byte

/-- `Syms` of 00_scope.md R10: index 0 is the first symbol written or read. -/
abbrev Syms := List Sym

end Sys2Proof
end

