-- ==== Sys2Proof/Syntax.lean ====
section
/-! DEFINITION. The commands of the block: one constructor for each of the eleven rows of spec/opcode_table.json
(30_encoding.md R97, R101). -/

namespace Sys2Proof

/-- A command. The only operand in the command word besides the flag is PACK's alignment (30_encoding.md R92); the flag
is part of the row, so BUILD_FRAME and EXTRACT have two rows each. -/
inductive Instr where
  /-- NOP (40_control.md R120). -/
  | nop
  /-- PACK with the alignment ALIGN (41_symbol_codec.md R133). -/
  | pack (align : BitVec 8)
  /-- UNPACK (41_symbol_codec.md R134). -/
  | unpack
  /-- BUILD_FRAME U: F = 0 (42_frame_codec.md R154). -/
  | buildFrameU
  /-- BUILD_FRAME E: F = 1 (42_frame_codec.md R154). -/
  | buildFrameE
  /-- PARSE_HEADER (42_frame_codec.md R156). -/
  | parseHeader
  /-- MAX_PAYLOAD (43_capacity.md R171). -/
  | maxPayload
  /-- CHECK_CAPACITY (43_capacity.md R173). -/
  | checkCapacity
  /-- EMBED (44_embedder.md R190). -/
  | embed
  /-- EXTRACT: F = 0 (45_extractor.md R210). -/
  | extract
  /-- EXTRACT KEY: F = 1 (45_extractor.md R210). -/
  | extractKey
  deriving DecidableEq, Repr

end Sys2Proof
end

