-- ==== Sys2Proof/WellFormed.lean ====
section
/-! DEFINITION. Which terms of `Instr` are commands: PACK's alignment is 1 to 255 (30_encoding.md R97, R98); no other
command has an operand in its word. -/

namespace Sys2Proof

/-- A command that some legal word encodes (30_encoding.md R98: `ALIGN != 0` for PACK). -/
def Instr.wf : Instr → Bool
  | .nop => true
  | .pack align => align != 0
  | .unpack => true
  | .buildFrameU => true
  | .buildFrameE => true
  | .parseHeader => true
  | .maxPayload => true
  | .checkCapacity => true
  | .embed => true
  | .extract => true
  | .extractKey => true

end Sys2Proof
end

