-- ==== Sys2Proof/Decode.lean ====
section
/-! DEFINITION. Decoding and encoding of command words (30_encoding.md R91, R92, R97, R98, R99, R101). Decoding is
total on the 2^32 words and rejects every illegal one by the name of the first check it fails. -/

namespace Sys2Proof

/-- Why a word is no command (30_encoding.md R98, R99). The block completes each of them with `IllegalCommand`; the
reason is the model's name for the reader only. -/
inductive DecodeError where
  /-- `w[31:16]` or `w[7:5]` is not 0. -/
  | reservedBits
  /-- `w[3:0]` is 9 to 15. -/
  | reservedOpcode (op : BitVec 4)
  /-- `F = 1` on a command other than BUILD_FRAME and EXTRACT. -/
  | flagNotAllowed
  /-- `ALIGN` is not 0 on a command other than PACK. -/
  | alignNotAllowed
  /-- `ALIGN = 0` on PACK. -/
  | alignZero
  deriving DecidableEq, Repr

/-- `OP = w[3:0]` (30_encoding.md R91). -/
def Word.op (w : Word) : BitVec 4 := w.extractLsb' 0 4

/-- `F = w[4]` (30_encoding.md R91, R92). -/
def Word.flag (w : Word) : Bool := w.getLsbD 4

/-- `RSVD1 = w[7:5]` (30_encoding.md R91). -/
def Word.rsvd1 (w : Word) : BitVec 3 := w.extractLsb' 5 3

/-- `ALIGN = w[15:8]` (30_encoding.md R91, R92). -/
def Word.align (w : Word) : BitVec 8 := w.extractLsb' 8 8

/-- `RSVD0 = w[31:16]` (30_encoding.md R91). -/
def Word.rsvd0 (w : Word) : BitVec 16 := w.extractLsb' 16 16

/-- A command without flag and alignment: both fields must be 0 (30_encoding.md R91). -/
def decodePlain (w : Word) (i : Instr) : Except DecodeError Instr :=
  if Word.flag w then .error .flagNotAllowed
  else if Word.align w != 0 then .error .alignNotAllowed
  else .ok i

/-- A command whose row the flag selects: ALIGN must be 0 (30_encoding.md R91). -/
def decodeFlagged (w : Word) (clear set : Instr) : Except DecodeError Instr :=
  if Word.align w != 0 then .error .alignNotAllowed
  else if Word.flag w then .ok set
  else .ok clear

/-- PACK: no flag, a nonzero alignment (30_encoding.md R91, R98). -/
def decodePack (w : Word) : Except DecodeError Instr :=
  if Word.flag w then .error .flagNotAllowed
  else if Word.align w == 0 then .error .alignZero
  else .ok (.pack (Word.align w))

/-- The command a word encodes (30_encoding.md R97), or the check of R98 it fails. -/
def decode (w : Word) : Except DecodeError Instr :=
  if Word.rsvd0 w != 0 || Word.rsvd1 w != 0 then .error .reservedBits
  else
    match (Word.op w).toNat with
    | 0 => decodePlain w .nop
    | 1 => decodePack w
    | 2 => decodePlain w .unpack
    | 3 => decodeFlagged w .buildFrameU .buildFrameE
    | 4 => decodePlain w .parseHeader
    | 5 => decodePlain w .maxPayload
    | 6 => decodePlain w .checkCapacity
    | 7 => decodePlain w .embed
    | 8 => decodeFlagged w .extract .extractKey
    | _ => .error (.reservedOpcode (Word.op w))

/-- A word from its fields, bit 31 first: RSVD0, ALIGN, RSVD1, F, OP (30_encoding.md R91). -/
def commandWord (align : BitVec 8) (flag : Bool) (op : BitVec 4) : Word :=
  (0#16 ++ align ++ 0#3 ++ BitVec.ofBool flag ++ op : BitVec 32)

/-- The word of a command (30_encoding.md R97, R101). -/
def encode : Instr → Word
  | .nop => commandWord 0 false 0x0
  | .pack align => commandWord align false 0x1
  | .unpack => commandWord 0 false 0x2
  | .buildFrameU => commandWord 0 false 0x3
  | .buildFrameE => commandWord 0 true 0x3
  | .parseHeader => commandWord 0 false 0x4
  | .maxPayload => commandWord 0 false 0x5
  | .checkCapacity => commandWord 0 false 0x6
  | .embed => commandWord 0 false 0x7
  | .extract => commandWord 0 false 0x8
  | .extractKey => commandWord 0 true 0x8

/-- Every command with every operand its encoding admits, in opcode order: the legal words of 30_encoding.md R98. -/
def everyCommand : List Instr :=
  [.nop] ++ (List.range 255).map (fun n => Instr.pack (BitVec.ofNat 8 (n + 1))) ++
    [.unpack, .buildFrameU, .buildFrameE, .parseHeader, .maxPayload, .checkCapacity, .embed, .extract, .extractKey]

/-- The word of an opcode-table row: the row's `nbits` low bits of `w`, every bit above them 0. The table numbers a
command word as R91 does, and the host's bus moves it whole (`HOST_BUS` is not modelled), so no byte order enters. -/
def tableWord (nbits w : Nat) : Nat := w % 2 ^ nbits

/-- The command the decoder reads from a table word; `none` where it refuses, and for more than 32 bits
(30_encoding.md R100: every command is exactly one 32-bit word). -/
def decodeTableWord (nbits w : Nat) : Option Instr :=
  if tableWord nbits w < 2 ^ 32 then
    match decode (BitVec.ofNat 32 (tableWord nbits w)) with
    | .ok i => some i
    | .error _ => none
  else none

end Sys2Proof
end

