-- ==== Sys2Proof/Config.lean ====
section
/-! DEFINITION. What an implementation fixes (00_scope.md R7), the cipher collaborator (60_exceptions.md R245), and
the free values of the spec's "any value" (93_implementation_defined.md section 2).

The parameters are plain data that `State` carries in its field `cfg` and no step changes (log entry 11), so that every
statement over states holds for every value of them. The cipher and the free values are constants without a body: no
proof can see what they are (log entries 5, 8, 9, 10, 12). -/

namespace Sys2Proof

/-- The open parameters of 00_scope.md R7 (92_eei_decisions.md D13, D14, D20); `none` is "not given". -/
structure Config where
  /-- `DIM_BITS`: width in bits of the GW and GH operands. -/
  dimBits : Option Nat
  /-- `BUF_BYTES`: capacity in bytes of each byte-sequence register. -/
  bufBytes : Option Nat
  /-- `BUF_SYMS`: capacity in symbols of each symbol-sequence register. -/
  bufSyms : Option Nat
  /-- `RESCAN`: EXTRACT's payload phase restarts at pixel 0 (true) or continues after the header (false). -/
  rescan : Bool
  deriving DecidableEq, Repr

/-- Nothing given, as 00_scope.md R7 and 92_eei_decisions.md D14 take it by default. DESIGN CHOICE (log entry 11):
`RESCAN = false`, one of the two values the spec admits. Unsafe only for a claim about this very configuration. -/
def Config.default : Config := { dimBits := none, bufBytes := none, bufSyms := none, rescan := false }

/-- The cipher collaborator's `decrypt(bytes, password)`: bytes, or `none` where it "fails with InvalidKeyOrData"
(60_exceptions.md R245). Uninterpreted (log entry 12). -/
opaque Config.decrypt : Bytes → Bytes → Option Bytes

/-- The cipher collaborator's `encrypt(bytes, password)`, called by the host only (60_exceptions.md R245).
Uninterpreted (log entry 12). -/
opaque Config.encrypt : Bytes → Bytes → Bytes

/-- The `n`-th free bit: KIND where the spec leaves it unspecified (10_state.md R35; log entries 5, 8, 9). -/
opaque Config.freeBit : Nat → BitVec 1

/-- The `n`-th free 64-bit value: PLEN where the spec leaves it unspecified (10_state.md R35; log entries 5,
8, 9). -/
opaque Config.freeLength : Nat → BitVec 64

/-- The `n`-th free number: CAP read while BUSY (70_reset_and_hazards.md R283; log entry 9), GW, GH and CAP read while
UNWRITTEN (log entry 5), and the `j` of a reset during EMBED (R272; log entry 10). -/
opaque Config.freeNat : Nat → Nat

/-- The `n`-th free byte sequence: BOUT where the spec leaves it unspecified (10_state.md R35; log entries 8, 9), BIN
and BOUT read while UNWRITTEN (log entry 5). -/
opaque Config.freeBytes : Nat → Bytes

/-- The `n`-th free symbol sequence: SOUT read while BUSY (70_reset_and_hazards.md R283; log entry 9), SIN and SOUT
read while UNWRITTEN (log entry 5). -/
opaque Config.freeSyms : Nat → Syms

/-- `CipherRoundTrip` of 60_exceptions.md R245: a property a claim may take as a premise, never assumed. -/
def Config.CipherRoundTrip : Prop := ∀ b p, Config.decrypt (Config.encrypt b p) p = some b

/-- `CipherAuthentic` of 60_exceptions.md R245: a property a claim may take as a premise, never assumed. -/
def Config.CipherAuthentic : Prop := ∀ b p q, q ≠ p → Config.decrypt (Config.encrypt b p) q = none

end Sys2Proof
end

