-- ==== Sys2Proof/Machine/State.lean ====
section
/-! DEFINITION. The state of the block as plain data (10_state.md): the registers of R21, the hidden state of R32, the
pixel grid of R36, the host's and the other agents' actions still to come (30_encoding.md R102), the parameters of
00_scope.md R7, and the counter of the free values. Beside it the outcomes of 60_exceptions.md R240 and R257 and the
state after reset (10_state.md R39). -/

namespace Sys2Proof.Machine

/-- The content of a register that holds no value until it is written: the marker UNWRITTEN is the spec's own reset
value (10_state.md R21, R34, R39; log entry 4). -/
inductive Reg (α : Type) where
  /-- The marker UNWRITTEN. -/
  | unwritten
  /-- A value written by the host or by a command. -/
  | written (value : α)
  deriving DecidableEq, Repr

/-- The twelve registers by name (10_state.md R21). -/
inductive RegName where
  | cmd | status | gw | gh | cap | kind | plen | pwd | bin | sin | bout | sout
  deriving DecidableEq, Repr

/-- The registers the host can read (10_state.md R21, column "host access"): all but PWD. -/
inductive ReadReg where
  | cmd | status | gw | gh | cap | kind | plen | bin | sin | bout | sout
  deriving DecidableEq, Repr

/-- The kind of a frame (42_frame_codec.md R151). -/
inductive Kind where
  | unencrypted | encrypted
  deriving DecidableEq, Repr

/-- The step the core takes next (10_state.md R32). -/
inductive Phase where
  | idle | embGate | embWrite | extSize | extHdr | extParse | extCheck | extPay | extDec
  deriving DecidableEq, Repr

/-- The errors a command can complete with (60_exceptions.md R240). -/
inductive CmdError where
  | capacityExceeded | notSteganographic | invalidKeyOrData | illegalCommand
  deriving DecidableEq, Repr

/-- A pixel: the triple of its channel values (10_state.md R36). -/
structure Pixel where
  r : Byte
  g : Byte
  b : Byte
  deriving DecidableEq, Repr

/-- The grid's bytes by channel address (20_memory.md R61): addresses strictly rising, no entry equal to what an
unlisted address reads as. -/
abbrev Memory := List Host.Cell

/-- What an unlisted channel address of the grid reads as. DESIGN CHOICE (log entry 7): the host supplies every pixel of
a grid, so the list only leaves out the channels whose value is 0. -/
def unlistedByte : Byte := 0

/-- Hidden state of a running command (10_state.md R32). -/
structure Hidden where
  /-- PHASE. -/
  phase : Phase
  /-- OPW: the command word being executed. -/
  opw : Word
  /-- K: the scan cursor. -/
  k : Nat
  /-- LATCH: the pixel most recently read by EXTRACT. -/
  latch : Pixel
  /-- STREAM: EMBED's packed frame. -/
  stream : Syms
  /-- ACC: EXTRACT's collected symbols. -/
  acc : Syms
  /-- HK: the kind parsed during EXTRACT. -/
  hk : Kind
  /-- HL: the length parsed during EXTRACT. -/
  hl : BitVec 64
  /-- NEEDED: `48 + HL * 4` during EXTRACT. -/
  needed : Nat
  /-- GEOM: width and height sampled when EMBED or EXTRACT started. -/
  geom : Nat × Nat
  /-- The model's own (log entry 10): the grid's bytes when the running EMBED passed its gate, the "old values" of
  70_reset_and_hazards.md R272. -/
  memBefore : Memory
  deriving DecidableEq, Repr

/-- The pixel-grid collaborator's state (10_state.md R36). -/
structure Grid where
  /-- W, the `width`. -/
  w : Nat
  /-- H, the `height`. -/
  h : Nat
  /-- PIX, byte by byte. -/
  mem : Memory
  /-- The model's own (log entry 17): the collaborator fails its next call (60_exceptions.md R244). -/
  fails : Bool
  deriving DecidableEq, Repr

/-- A value the host has read. -/
inductive HostValue where
  | word (w : Word)
  | nat (n : Nat)
  | bit (b : BitVec 1)
  | length (n : BitVec 64)
  | bytes (b : Bytes)
  | syms (s : Syms)
  | pixel (p : Pixel)
  deriving DecidableEq, Repr

/-- What the host encrypts (30_encoding.md R102, R103: `ENCRYPT <bytes>, <pwd> -> BIN`, `ENCRYPT x[BIN], <pwd> -> BIN`;
log entry 12). -/
inductive EncryptSource where
  | literal (b : Bytes)
  | bin
  deriving DecidableEq, Repr

/-- One turn of an agent that is not the core (log entry 2): the host's actions (30_encoding.md R102), the accesses of
other agents to the grid (20_memory.md R75), a failing collaborator (60_exceptions.md R244), reset
(70_reset_and_hazards.md R270), and a turn left to the core. -/
inductive Action where
  /-- `SET CMD = w`. -/
  | setCmd (w : Word)
  /-- `SET GW = n`. -/
  | setGw (n : Nat)
  /-- `SET GH = n`. -/
  | setGh (n : Nat)
  /-- `SET PWD = p`. -/
  | setPwd (p : Bytes)
  /-- `SET BIN = b`. -/
  | setBin (b : Bytes)
  /-- `SET SIN = s`. -/
  | setSin (s : Syms)
  /-- `GET r`. -/
  | get (r : ReadReg)
  /-- `WAIT`: read STATUS until DONE = 1. -/
  | wait
  /-- `COPY BIN <- BOUT`. -/
  | copyBinBout
  /-- `STOPIF ERR`. -/
  | stopIfErr
  /-- `GRID w x h = pixels`, in raster order. -/
  | gridSetup (w h : Nat) (pixels : List Pixel)
  /-- `ENCRYPT source, pwd -> BIN`. -/
  | encryptToBin (source : EncryptSource) (pwd : Bytes)
  /-- `get(x, y)` by an agent other than the core. -/
  | gridGet (x y : Nat)
  /-- `set(x, y, p)` by an agent other than the core. -/
  | gridSet (x y : Nat) (p : Pixel)
  /-- The collaborator begins or stops failing its calls. -/
  | gridFailing (fails : Bool)
  /-- The reset event. -/
  | reset
  /-- No other agent moves: the core takes a step if a command runs. -/
  | coreTurn
  deriving DecidableEq, Repr

/-- The host's side (30_encoding.md R102; log entries 2 and 18). -/
structure HostSide where
  /-- The actions still to come, first one next. -/
  script : List Action
  /-- The value read last; `none` before the first read. -/
  lastRead : Option HostValue
  deriving DecidableEq, Repr

/-- The machine. -/
structure State where
  /-- STATUS (10_state.md R23). CMD has no field: it reads 0 and stores nothing (R22). -/
  status : Word
  /-- GW (10_state.md R24). -/
  gw : Reg Nat
  /-- GH (10_state.md R24). -/
  gh : Reg Nat
  /-- CAP (10_state.md R25). -/
  cap : Reg Nat
  /-- KIND (10_state.md R26). -/
  kind : Reg (BitVec 1)
  /-- PLEN (10_state.md R27). -/
  plen : Reg (BitVec 64)
  /-- PWD (10_state.md R28). -/
  pwd : Reg Bytes
  /-- BIN (10_state.md R29). -/
  bin : Reg Bytes
  /-- SIN (10_state.md R29). -/
  sin : Reg Syms
  /-- BOUT (10_state.md R29). -/
  bout : Reg Bytes
  /-- SOUT (10_state.md R29). -/
  sout : Reg Syms
  /-- The hidden state of a running command (10_state.md R32). -/
  hid : Hidden
  /-- The pixel grid (10_state.md R36). -/
  grid : Grid
  /-- The host's side. -/
  host : HostSide
  /-- The parameters (00_scope.md R7). -/
  cfg : Config
  /-- How many free values have been drawn (log entries 5, 8 to 10). -/
  draws : Nat
  deriving DecidableEq, Repr

/-- Why a run has no defined continuation on the hardware (00_scope.md R13, 60_exceptions.md R257). Each is safe: the
hardware goes on in some way no source gives, and the model admits no run. -/
inductive Fault where
  /-- A command reads operand register `r`, which is UNWRITTEN: the spec's own outcome (10_state.md R34, 60_exceptions.md
  R257; log entry 4). Raised by PACK, UNPACK, BUILD_FRAME, PARSE_HEADER, MAX_PAYLOAD, CHECK_CAPACITY, EMBED and EXTRACT
  KEY. Safe. -/
  | unwrittenOperand (r : RegName)
  /-- Another agent wrote the grid during EMBED or EXTRACT, or read it during EMBED (20_memory.md R75). Raised by the
  other agent's access. Safe. -/
  | gridRace
  /-- The pixel-grid collaborator failed a call, or its geometry changed during a command (60_exceptions.md R244; log
  entry 17). Raised by EMBED, EXTRACT and an agent's own access or GRID. Safe. -/
  | collaboratorFailure
  deriving DecidableEq, Repr

/-- Cases without a meaning (00_scope.md R13). Each is safe: the model stops where the hardware may go on. -/
inductive Refusal where
  /-- An instruction whose meaning is not written. Raised by `exec` only. Safe. -/
  | notModelled (mnemonic : String)
  /-- A result longer than BUF_BYTES or BUF_SYMS, when given (10_state.md R35, 60_exceptions.md R257). Raised by PACK,
  UNPACK, BUILD_FRAME and EXTRACT. Safe. -/
  | resultTooLong
  /-- A host write of a value outside the domain of register `r` (10_state.md R21; log entry 14). Raised by SET, COPY and
  ENCRYPT. Safe. -/
  | operandOutsideDomain (r : RegName)
  /-- A GRID action whose list has not `w * h` pixels (log entry 16). Raised by GRID. Safe. -/
  | gridSizeMismatch
  deriving DecidableEq, Repr

/-- The outcome of one step. -/
abbrev Result := Host.Outcome State Fault Refusal

/-- Hidden state after reset (10_state.md R39: "unspecified; never read before a command writes them"; PHASE is IDLE).
DESIGN CHOICE (log entry 6): zero or empty, for each field but PHASE. -/
def Hidden.reset : Hidden where
  phase := .idle
  opw := 0
  k := 0
  latch := { r := 0, g := 0, b := 0 }
  stream := []
  acc := []
  hk := .unencrypted
  hl := 0
  needed := 0
  geom := (0, 0)
  memBefore := []

/-- The grid before the host has supplied one (70_reset_and_hazards.md R273). DESIGN CHOICE (log entry 7): no pixel. -/
def Grid.empty : Grid := { w := 0, h := 0, mem := [], fails := false }

/-- The machine right after reset (10_state.md R39, 70_reset_and_hazards.md R271), with no action to come. -/
def State.reset : State where
  status := 0x00000000
  gw := .unwritten
  gh := .unwritten
  cap := .unwritten
  kind := .unwritten
  plen := .unwritten
  pwd := .unwritten
  bin := .unwritten
  sin := .unwritten
  bout := .unwritten
  sout := .unwritten
  hid := Hidden.reset
  grid := Grid.empty
  host := { script := [], lastRead := none }
  cfg := Config.default
  draws := 0

end Sys2Proof.Machine
end

