-- ==== Sys2Proof/Machine/Flags.lean ====
section
/-! DEFINITION. STATUS, the block's only flags (10_state.md R23, R31, R38): its fields, the codes of the errors
(60_exceptions.md R240), and the two words a command leaves there. -/

namespace Sys2Proof.Machine

/-- BUSY, bit 0 (10_state.md R23). -/
def Status.busy (w : Word) : Bool := w.getLsbD 0

/-- DONE, bit 1 (10_state.md R23). -/
def Status.done (w : Word) : Bool := w.getLsbD 1

/-- ERR, bits 7:4 (10_state.md R23). -/
def Status.err (w : Word) : BitVec 4 := w.extractLsb' 4 4

/-- STATUS from its fields, bit 31 first; bits 31:8 and 3:2 are reserved and read as 0 (10_state.md R23). -/
def Status.word (busy done : Bool) (err : BitVec 4) : Word :=
  (0#24 ++ err ++ 0#2 ++ BitVec.ofBool done ++ BitVec.ofBool busy : BitVec 32)

/-- The code of an outcome (60_exceptions.md R240, R241). -/
def errorCode : Option CmdError → BitVec 4
  | none => 0
  | some .capacityExceeded => 1
  | some .notSteganographic => 2
  | some .invalidKeyOrData => 3
  | some .illegalCommand => 4

/-- STATUS while a command runs: BUSY = 1, DONE = 0, ERR = 0 (10_state.md R38, 30_encoding.md R90). -/
def Status.running : Word := Status.word true false 0

/-- STATUS after a command has completed: BUSY = 0, DONE = 1, ERR = code (10_state.md R38, 60_exceptions.md R241). -/
def Status.completed (e : Option CmdError) : Word := Status.word false true (errorCode e)

/-- Whether a command runs (60_exceptions.md R256). -/
def State.busy (s : State) : Bool := Status.busy s.status

/-- Whether a command has completed since the last one started. -/
def State.done (s : State) : Bool := Status.done s.status

/-- The code of the completed command's outcome. -/
def State.err (s : State) : BitVec 4 := Status.err s.status

end Sys2Proof.Machine
end

