-- ==== Sys2Proof/Machine/Ops.lean ====
section
/-! DEFINITION. The shared operations: starting and completing a command (30_encoding.md R90, 60_exceptions.md R241; the
completion with an error is the block's whole trap mechanism, R248, and the next command's start the return from it,
R249), drawing the free values of a failed command's results (10_state.md R35), the bytes and pixels of the grid
(20_memory.md R60 to R66), and the calls of the pixel-grid collaborator (60_exceptions.md R244). -/

namespace Sys2Proof.Machine

/-! ### Bounds of the sequence registers (00_scope.md R7) -/

/-- Whether a length keeps within a bound; every length does where none is given. -/
def withinBound (n : Nat) : Option Nat → Bool
  | none => true
  | some b => decide (n ≤ b)

/-- A sequence cut to a bound; the sequence itself where none is given. -/
def cutToBound {α : Type} (y : List α) : Option Nat → List α
  | none => y
  | some b => y.take b

/-! ### Starting and completing a command -/

/-- The phase in which a command takes its first step (44_embedder.md R197, 45_extractor.md R225); a one-step command
has none and leaves PHASE at IDLE. -/
def startPhase : Instr → Phase
  | .embed => .embGate
  | .extract => .extSize
  | .extractKey => .extSize
  | .nop | .pack _ | .unpack | .buildFrameU | .buildFrameE | .parseHeader | .maxPayload | .checkCapacity => .idle

/-- What a write of CMD does before the command's own rule runs: `STATUS <- 1`, `OPW <- w` (30_encoding.md R90). ERR of
the command before is cleared here (60_exceptions.md R249). -/
def State.accept (s : State) (w : Word) (p : Phase) : State :=
  { s with status := Status.running, hid := { s.hid with opw := w, phase := p } }

/-- `complete(e)`: BUSY <- 0, DONE <- 1, ERR <- code(e), PHASE <- IDLE, and nothing else (60_exceptions.md R241). -/
def State.complete (s : State) (e : Option CmdError) : State :=
  { s with status := Status.completed e, hid := { s.hid with phase := .idle } }

/-! ### Free values (10_state.md R35) -/

/-- KIND holds an unspecified bit. -/
def State.drawKind (s : State) : State :=
  { s with kind := .written (Config.freeBit s.draws), draws := s.draws + 1 }

/-- PLEN holds an unspecified 64-bit value. -/
def State.drawPlen (s : State) : State :=
  { s with plen := .written (Config.freeLength s.draws), draws := s.draws + 1 }

/-- An unspecified byte sequence of BOUT's domain: its length keeps within BUF_BYTES (10_state.md R29, R35). -/
def State.freeBytesIn (s : State) : Bytes := cutToBound (Config.freeBytes s.draws) s.cfg.bufBytes

/-- An unspecified symbol sequence of SOUT's domain: its length keeps within BUF_SYMS (10_state.md R29, R35). -/
def State.freeSymsIn (s : State) : Syms := cutToBound (Config.freeSyms s.draws) s.cfg.bufSyms

/-- An unspecified number of GW's and GH's domain: below `2^DIM_BITS`, where given (10_state.md R21). -/
def State.freeDimIn (s : State) : Nat :=
  match s.cfg.dimBits with
  | none => Config.freeNat s.draws
  | some d => Config.freeNat s.draws % 2 ^ d

/-- BOUT holds an unspecified byte sequence. -/
def State.drawBout (s : State) : State :=
  { s with bout := .written s.freeBytesIn, draws := s.draws + 1 }

/-! ### Results -/

/-- BOUT receives a result and the command completes without error; a result longer than BUF_BYTES is refused
(10_state.md R29, R35). -/
def finishWithBout (s : State) (b : Bytes) : Result :=
  if withinBound b.length s.cfg.bufBytes then .next (State.complete { s with bout := .written b } none)
  else .refused .resultTooLong

/-- SOUT receives a result and the command completes without error; a result longer than BUF_SYMS is refused
(10_state.md R29, R35). -/
def finishWithSout (s : State) (y : Syms) : Result :=
  if withinBound y.length s.cfg.bufSyms then .next (State.complete { s with sout := .written y } none)
  else .refused .resultTooLong

/-! ### Bytes of the grid -/

/-- The byte at a channel address. -/
def Memory.read : Memory → Nat → Byte
  | [], _ => unlistedByte
  | (k, v) :: m, a => if k = a then v else Memory.read m a

/-- The grid with one byte replaced, in canonical form. -/
def Memory.write : Memory → Nat → Byte → Memory
  | [], a, b => if b = unlistedByte then [] else [(a, b)]
  | (k, v) :: m, a, b =>
    if a < k then (if b = unlistedByte then (k, v) :: m else (a, b) :: (k, v) :: m)
    else if a = k then (if b = unlistedByte then m else (a, b) :: m)
    else (k, v) :: Memory.write m a b

/-- The canonical form: addresses strictly rising, no entry equal to what an unlisted address reads as. -/
abbrev Memory.wf (m : Memory) : Prop :=
  m.Pairwise (fun c d => c.1 < d.1) ∧ ∀ c ∈ m, c.2 ≠ unlistedByte

/-- Pixel `i`: the bytes at `3*i`, `3*i + 1`, `3*i + 2` (20_memory.md R61, R63). -/
def Memory.readPixel (m : Memory) (i : Nat) : Pixel :=
  { r := Memory.read m (3 * i), g := Memory.read m (3 * i + 1), b := Memory.read m (3 * i + 2) }

/-- Pixel `i` replaced as a whole (20_memory.md R63, R64). -/
def Memory.writePixel (m : Memory) (i : Nat) (p : Pixel) : Memory :=
  Memory.write (Memory.write (Memory.write m (3 * i) p.r) (3 * i + 1) p.g) (3 * i + 2) p.b

/-- One byte as canonical cells. -/
def cellOf (a : Nat) (b : Byte) : Memory := if b = unlistedByte then [] else [(a, b)]

/-- Pixels in raster order from pixel `i` on, as canonical cells (00_scope.md R15). -/
def Memory.ofPixels : Nat → List Pixel → Memory
  | _, [] => []
  | i, p :: ps =>
    cellOf (3 * i) p.r ++ cellOf (3 * i + 1) p.g ++ cellOf (3 * i + 2) p.b ++ Memory.ofPixels (i + 1) ps

/-- A grid whose bytes are canonical and stand at existing channel addresses, `[0, 3*W*H)` (20_memory.md R61). -/
abbrev Grid.wf (g : Grid) : Prop :=
  Memory.wf g.mem ∧ ∀ c ∈ g.mem, c.1 < 3 * (g.w * g.h)

/-- Channel `c` of a pixel: 0 is R, 1 is G, every other number B (00_scope.md R15; only 0, 1 and 2 are used). -/
def Pixel.channel (p : Pixel) : Nat → Byte
  | 0 => p.r
  | 1 => p.g
  | _ => p.b

/-! ### Calls of the pixel-grid collaborator (60_exceptions.md R244) -/

/-- `get(x, y)`: it fails when the collaborator fails its calls, and outside the grid (log entry 17). -/
def Grid.get (g : Grid) (x y : Nat) : Except Fault Pixel :=
  if g.fails then .error .collaboratorFailure
  else if x < g.w ∧ y < g.h then .ok (Memory.readPixel g.mem (y * g.w + x))
  else .error .collaboratorFailure

/-- `set(x, y, p)`: it fails as `get` does. -/
def Grid.set (g : Grid) (x y : Nat) (p : Pixel) : Except Fault Grid :=
  if g.fails then .error .collaboratorFailure
  else if x < g.w ∧ y < g.h then .ok { g with mem := Memory.writePixel g.mem (y * g.w + x) p }
  else .error .collaboratorFailure

/-- The `width` and `height` a command samples at its start (10_state.md R32, GEOM). -/
def withGeometry (s : State) (k : State → Result) : Result :=
  if s.grid.fails then .fault .collaboratorFailure
  else k { s with hid := { s.hid with geom := (s.grid.w, s.grid.h) } }

/-- `MemRead(3*i, 3) = get(i mod W, i div W)`, with the sampled `W` (20_memory.md R62). -/
def memRead (s : State) (i : Nat) (k : Pixel → Result) : Result :=
  match s.grid.get (i % s.hid.geom.1) (i / s.hid.geom.1) with
  | .ok p => k p
  | .error f => .fault f

/-- `MemWrite(3*i, 3, p) = set(i mod W, i div W, p)`, with the sampled `W` (20_memory.md R62). -/
def memWrite (s : State) (i : Nat) (p : Pixel) (k : State → Result) : Result :=
  match s.grid.set (i % s.hid.geom.1) (i / s.hid.geom.1) p with
  | .ok g => k { s with grid := g }
  | .error f => .fault f

end Sys2Proof.Machine
end

