-- ==== Sys2Proof/Machine/Operands.lean ====
section
/-! DEFINITION. The operand forms: a command's operand registers (00_scope.md R11, 10_state.md R34) and its one operand
in the word (30_encoding.md R92); the host's reads and writes of registers (10_state.md R21, 30_encoding.md R102,
70_reset_and_hazards.md R283). -/

namespace Sys2Proof.Machine

/-! ### What a command reads -/

/-- `x[r]` as an operand: an UNWRITTEN register is `fault UnwrittenOperand(r)` (00_scope.md R11, 10_state.md R34,
60_exceptions.md R246, R257). -/
def operand {α : Type} (r : RegName) (c : Reg α) (k : α → Result) : Result :=
  match c with
  | .unwritten => .fault (.unwrittenOperand r)
  | .written v => k v

/-- `align = zext(w[15:8])`, a number from 0 to 255 (30_encoding.md R92). -/
def alignOperand (align : BitVec 8) : Nat := align.toNat

/-- The code of a kind in KIND (10_state.md R26). -/
def Kind.code : Kind → BitVec 1
  | .unencrypted => 0
  | .encrypted => 1

/-! ### What the host reads and writes -/

/-- The value, if one has been written. -/
def Reg.value? {α : Type} : Reg α → Option α
  | .unwritten => none
  | .written v => some v

/-- The value a register holds, as the host reads it; `none` while it is UNWRITTEN. CMD reads 0x00000000 (10_state.md
R21, R22). -/
def storedValue (s : State) : ReadReg → Option HostValue
  | .cmd => some (.word 0)
  | .status => some (.word s.status)
  | .gw => s.gw.value?.map .nat
  | .gh => s.gh.value?.map .nat
  | .cap => s.cap.value?.map .nat
  | .kind => s.kind.value?.map .bit
  | .plen => s.plen.value?.map .length
  | .bin => s.bin.value?.map .bytes
  | .sin => s.sin.value?.map .syms
  | .bout => s.bout.value?.map .bytes
  | .sout => s.sout.value?.map .syms

/-- An unspecified value of the register's domain (10_state.md R21; log entries 5 and 9). CMD and STATUS always hold a
value, so theirs is never used. -/
def freeValue (s : State) : ReadReg → HostValue
  | .cmd | .status => .word 0
  | .gw | .gh => .nat s.freeDimIn
  | .cap => .nat (Config.freeNat s.draws)
  | .kind => .bit (Config.freeBit s.draws)
  | .plen => .length (Config.freeLength s.draws)
  | .bin | .bout => .bytes s.freeBytesIn
  | .sin | .sout => .syms s.freeSymsIn

/-- The registers of results (10_state.md R21, column "written by the core in"). -/
def ReadReg.isResult : ReadReg → Bool
  | .cap | .kind | .plen | .bout | .sout => true
  | .cmd | .status | .gw | .gh | .bin | .sin => false

/-- The value the host reads from a register: the one it holds, but an unspecified one from a result register while BUSY
(70_reset_and_hazards.md R283; log entry 9) and from a register still UNWRITTEN, which only a command's read makes a fault
(60_exceptions.md R257; log entry 5). -/
def hostValue (s : State) (r : ReadReg) : HostValue × State :=
  match if s.busy && r.isResult then none else storedValue s r with
  | some v => (v, s)
  | none => (freeValue s r, { s with draws := s.draws + 1 })

/-- `GET r`: the host knows the value it has read. No register changes. -/
def hostRead (s : State) (r : ReadReg) : HostValue × State :=
  match hostValue s r with
  | (v, t) => (v, { t with host := { t.host with lastRead := some v } })

/-- A host write of an operand register: ignored while BUSY (70_reset_and_hazards.md R283); a value outside the
register's domain is refused (10_state.md R21; log entry 14). -/
def hostWrite (s : State) (r : RegName) (inDomain : Bool) (t : State) : Result :=
  if s.busy then .next s
  else if inDomain then .next t
  else .refused (.operandOutsideDomain r)

/-- `SET GW = n`. -/
def hostSetGw (s : State) (n : Nat) : Result :=
  hostWrite s .gw (withinBound (n + 1) (s.cfg.dimBits.map (2 ^ ·))) { s with gw := .written n }

/-- `SET GH = n`. -/
def hostSetGh (s : State) (n : Nat) : Result :=
  hostWrite s .gh (withinBound (n + 1) (s.cfg.dimBits.map (2 ^ ·))) { s with gh := .written n }

/-- `SET PWD = p`: any value (10_state.md R28). -/
def hostSetPwd (s : State) (p : Bytes) : Result :=
  hostWrite s .pwd true { s with pwd := .written p }

/-- `SET BIN = b`. -/
def hostSetBin (s : State) (b : Bytes) : Result :=
  hostWrite s .bin (withinBound b.length s.cfg.bufBytes) { s with bin := .written b }

/-- `SET SIN = y`. -/
def hostSetSin (s : State) (y : Syms) : Result :=
  hostWrite s .sin (withinBound y.length s.cfg.bufSyms) { s with sin := .written y }

end Sys2Proof.Machine
end

