-- ==== Sys2Proof/Machine/Capacity.lean ====
section
/-! DEFINITION. The Capacity Model: the bound on a frame, and the commands MAX_PAYLOAD and CHECK_CAPACITY
(43_capacity.md). -/

namespace Sys2Proof.Machine

/-- `max_payload(W, H) = (W * H * 6) div 8`, the bound on a frame, header and payload together (43_capacity.md R170). -/
def maxPayload (w h : Nat) : Nat := w * h * 6 / 8

/-- `check_capacity(Fr, W, H)` raises `CapacityExceeded`: the comparison is strict (43_capacity.md R172). -/
def overCapacity (frame : Bytes) (w h : Nat) : Bool := decide (maxPayload w h < frame.length)

/-- MAX_PAYLOAD: `CAP <- max_payload(GW, GH)` (43_capacity.md R171). -/
def execMaxPayload (s : State) : Result :=
  operand .gw s.gw fun w => operand .gh s.gh fun h =>
    .next (State.complete { s with cap := .written (maxPayload w h) } none)

/-- CHECK_CAPACITY: `CapacityExceeded` or no error; no result register (43_capacity.md R173). -/
def execCheckCapacity (s : State) : Result :=
  operand .bin s.bin fun frame => operand .gw s.gw fun w => operand .gh s.gh fun h =>
    if overCapacity frame w h then .next (s.complete (some .capacityExceeded))
    else .next (s.complete none)

end Sys2Proof.Machine
end

