-- ==== Sys2Proof/Machine/Control.lean ====
section
/-! DEFINITION. The control command: NOP (40_control.md). -/

namespace Sys2Proof.Machine

/-- NOP reads nothing and completes without error (40_control.md R120). -/
def execNop (s : State) : Result := .next (s.complete none)

end Sys2Proof.Machine
end

