-- ==== Sys2Proof/Machine/SymbolCodec.lean ====
section
/-! DEFINITION. The Bit-Symbol Codec: `pack`, `unpack`, and the commands PACK and UNPACK (41_symbol_codec.md). -/

namespace Sys2Proof.Machine

/-- A byte's four symbols, most significant pair first: bits 7:6, 5:4, 3:2, 1:0 (41_symbol_codec.md R130, R136). -/
def byteSyms (b : Byte) : Syms :=
  [b.extractLsb' 6 2, b.extractLsb' 4 2, b.extractLsb' 2 2, b.extractLsb' 0 2]

/-- How many zero symbols bring a length to a multiple of the alignment (41_symbol_codec.md R130). -/
def padLength (len a : Nat) : Nat := (a - len % a) % a

/-- `pack(B, a)` (41_symbol_codec.md R130). -/
def pack (bytes : Bytes) (a : Nat) : Syms :=
  bytes.flatMap byteSyms ++ List.replicate (padLength (bytes.flatMap byteSyms).length a) 0

/-- Four symbols recombined: `(s0 << 6) | (s1 << 4) | (s2 << 2) | s3` (41_symbol_codec.md R131). -/
def symsByte (s0 s1 s2 s3 : Sym) : Byte :=
  (s0.setWidth 8 <<< 6) ||| (s1.setWidth 8 <<< 4) ||| (s2.setWidth 8 <<< 2) ||| s3.setWidth 8

/-- `unpack(S)`: the last `len(S) mod 4` symbols are ignored (41_symbol_codec.md R131, R135). -/
def unpack : Syms → Bytes
  | s0 :: s1 :: s2 :: s3 :: rest => symsByte s0 s1 s2 s3 :: unpack rest
  | _ => []

/-- PACK: `SOUT <- pack(BIN, ALIGN)` (41_symbol_codec.md R133). `ALIGN = 0` is no command: its word is illegal and
completes so (30_encoding.md R98, R99; log entry 19). -/
def execPack (align : BitVec 8) (s : State) : Result :=
  if align = 0 then .next (s.complete (some .illegalCommand))
  else operand .bin s.bin fun b => finishWithSout s (pack b (alignOperand align))

/-- UNPACK: `BOUT <- unpack(SIN)` (41_symbol_codec.md R134). -/
def execUnpack (s : State) : Result :=
  operand .sin s.sin fun y => finishWithBout s (unpack y)

end Sys2Proof.Machine
end

