-- ==== Sys2Proof/Machine/Embedder.lean ====
section
/-! DEFINITION. The Embedder: EMBED in the step form (44_embedder.md R197), and the whole command (R190) as a function
of its own. -/

namespace Sys2Proof.Machine

/-- `ALIGN_EMB` (00_scope.md R14). -/
def embedAlign : Nat := 3

/-- The new channel value `(old & 0xFC) | s` (44_embedder.md R193, 20_memory.md R66). -/
def substitute (old : Byte) (y : Sym) : Byte := (old &&& 0xFC) ||| y.setWidth 8

/-- Pixel `p` with the stream's symbols from index `k` on in R, G, B (44_embedder.md R193). -/
def embedPixel (stream : Syms) (k : Nat) (p : Pixel) : Pixel where
  r := substitute p.r (stream.getD k 0)
  g := substitute p.g (stream.getD (k + 1) 0)
  b := substitute p.b (stream.getD (k + 2) 0)

/-- The grid's bytes after the first `n` pixels of a stream have been written, in raster order (44_embedder.md R190, R193,
R194). -/
def embedPixels (stream : Syms) (m : Memory) : Nat → Memory
  | 0 => m
  | n + 1 =>
    let m' := embedPixels stream m n
    Memory.writePixel m' n (embedPixel stream (3 * n) (Memory.readPixel m' n))

/-- `EMB_GATE`: the operand, the geometry, the capacity gate before any pixel, the packed stream (44_embedder.md R191,
R192, R197). `memBefore` is the model's own (log entry 10). -/
def embGateStep (s : State) : Result :=
  operand .bin s.bin fun frame => withGeometry s fun t =>
    if overCapacity frame t.hid.geom.1 t.hid.geom.2 then .next (t.complete (some .capacityExceeded))
    else
      .next { t with hid :=
        { t.hid with stream := pack frame embedAlign, k := 0, phase := .embWrite, memBefore := t.grid.mem } }

/-- `EMB_WRITE`: completion when the stream is used up, else one whole pixel (44_embedder.md R193, R194, R197). -/
def embWriteStep (s : State) : Result :=
  if s.hid.k = s.hid.stream.length then .next (s.complete none)
  else
    memRead s (s.hid.k / 3) fun p =>
      memWrite s (s.hid.k / 3) (embedPixel s.hid.stream s.hid.k p) fun t =>
        .next { t with hid := { t.hid with k := t.hid.k + 3 } }

/-- EMBED: the step that PHASE names (44_embedder.md R197). A PHASE that is not EMBED's own begins at the gate; no run
has one there (log entry 20). -/
def execEmbed (s : State) : Result :=
  match s.hid.phase with
  | .embWrite => embWriteStep s
  | .idle | .embGate | .extSize | .extHdr | .extParse | .extCheck | .extPay | .extDec => embGateStep s

/-- EMBED as one function, on the state in which the command starts (44_embedder.md R190). Not run by the machine: the
step form is; a statement says that the two agree. -/
def embedWhole (s : State) : Result :=
  operand .bin s.bin fun frame => withGeometry s fun t =>
    if overCapacity frame t.grid.w t.grid.h then .next (t.complete (some .capacityExceeded))
    else
      let stream := pack frame embedAlign
      .next (State.complete
        { t with grid := { t.grid with mem := embedPixels stream t.grid.mem (stream.length / 3) } } none)

end Sys2Proof.Machine
end

