-- ==== Sys2Proof/Machine/FrameCodec.lean ====
section
/-! DEFINITION. The Frame Codec: `build_frame`, `parse_header`, and the commands BUILD_FRAME and PARSE_HEADER
(42_frame_codec.md). -/

namespace Sys2Proof.Machine

/-- `be_enc(v, n)`: the `n` bytes of `v`, most significant first (42_frame_codec.md R150, 20_memory.md R67; log entry
15). -/
def beEnc (v n : Nat) : Bytes :=
  (List.range n).map fun i => BitVec.ofNat 8 (v / 2 ^ (8 * (n - 1 - i)))

/-- `be_dec(B)`: the number whose bytes, most significant first, are `B` (42_frame_codec.md R150; log entry 15). -/
def beDec (bytes : Bytes) : Nat := bytes.foldl (fun acc b => acc * 2 ^ 8 + b.toNat) 0

/-- `marker(k)` (42_frame_codec.md R151, 00_scope.md R14). -/
def marker : Kind → Nat
  | .unencrypted => 0xDEADC0DE
  | .encrypted => 0x1337C0DE

/-- `HDR_BYTES` (00_scope.md R14). -/
def headerBytes : Nat := 12

/-- `build_frame(P, enc)`: marker, 8-byte length of the payload, payload (42_frame_codec.md R152). -/
def buildFrame (payload : Bytes) (k : Kind) : Bytes :=
  beEnc (marker k) 4 ++ beEnc payload.length 8 ++ payload

/-- `parse_header(Hd)` on a 12-byte header; `none` is `NotSteganographic` (42_frame_codec.md R155, R158). -/
def parseHeader (hd : Bytes) : Option (Kind × BitVec 64) :=
  let m := beDec (hd.take 4)
  let len := BitVec.ofNat 64 (beDec ((hd.drop 4).take 8))
  if m = marker .unencrypted then some (.unencrypted, len)
  else if m = marker .encrypted then some (.encrypted, len)
  else none

/-- KIND and PLEN receive a parsed header (42_frame_codec.md R156, 45_extractor.md R215). -/
def State.writeHeader (s : State) (k : Kind) (len : BitVec 64) : State :=
  { s with kind := .written k.code, plen := .written len }

/-- BUILD_FRAME of a kind: `BOUT <- build_frame(BIN, k)`; a payload of `2^64` bytes or more is `IllegalCommand`, and
BOUT, which the command would have written, is then unspecified (42_frame_codec.md R154, 10_state.md R35). -/
def buildFrameCommand (k : Kind) (s : State) : Result :=
  operand .bin s.bin fun p =>
    if 2 ^ 64 ≤ p.length then .next (s.drawBout.complete (some .illegalCommand))
    else finishWithBout s (buildFrame p k)

/-- PARSE_HEADER completes with an error: KIND and PLEN, which it would have written, are unspecified
(42_frame_codec.md R156, 10_state.md R35). -/
def failParse (e : CmdError) (s : State) : Result := .next (s.drawKind.drawPlen.complete (some e))

/-- BUILD_FRAME U: F = 0 (42_frame_codec.md R154). -/
def execBuildFrameU (s : State) : Result := buildFrameCommand .unencrypted s

/-- BUILD_FRAME E: F = 1 (42_frame_codec.md R154). -/
def execBuildFrameE (s : State) : Result := buildFrameCommand .encrypted s

/-- PARSE_HEADER: KIND and PLEN from the first 12 bytes of BIN (42_frame_codec.md R156). -/
def execParseHeader (s : State) : Result :=
  operand .bin s.bin fun hd =>
    if hd.length < headerBytes then failParse .illegalCommand s
    else
      match parseHeader (hd.take headerBytes) with
      | none => failParse .notSteganographic s
      | some (k, len) => .next ((s.writeHeader k len).complete none)

end Sys2Proof.Machine
end

