-- ==== Sys2Proof/Machine/Extractor.lean ====
section
/-! DEFINITION. The Extractor: EXTRACT and EXTRACT KEY in the step form (45_extractor.md R225), and the whole command
(R210) as a function of its own. -/

namespace Sys2Proof.Machine

/-- `HDR_SYMS` (00_scope.md R14). -/
def headerSyms : Nat := 48

/-- `needed = 48 + L * 4`, exact (45_extractor.md R216). -/
def neededSyms (len : BitVec 64) : Nat := headerSyms + len.toNat * 4

/-- A channel's symbol: its two low bits (45_extractor.md R213). -/
def channelSym (b : Byte) : Sym := b.extractLsb' 0 2

/-- `P = unpack(ACC[48 .. NEEDED))` (45_extractor.md R220). -/
def payloadOf (acc : Syms) (needed : Nat) : Bytes :=
  unpack ((acc.drop headerSyms).take (needed - headerSyms))

/-- EXTRACT completes with an error: KIND, PLEN and BOUT, the registers it writes, are unspecified (45_extractor.md R215,
10_state.md R35). -/
def failExtract (e : CmdError) (s : State) : Result :=
  .next (s.drawKind.drawPlen.drawBout.complete (some e))

/-- Channel `K mod 3` of pixel `p` joins ACC and the cursor moves on; `p` is the latch (45_extractor.md R225). -/
def State.collect (s : State) (p : Pixel) : State :=
  { s with hid :=
    { s.hid with
      latch := p
      acc := s.hid.acc ++ [channelSym (p.channel (s.hid.k % 3))]
      k := s.hid.k + 1 } }

/-- One symbol of a scan: a pixel is read at its first channel, and latched (45_extractor.md R225). -/
def nextSymbol (s : State) (k : State → Result) : Result :=
  if s.hid.k % 3 = 0 then memRead s (s.hid.k / 3) fun p => k (s.collect p)
  else k (s.collect s.hid.latch)

/-- PHASE alone changes. -/
def State.enter (s : State) (p : Phase) : State := { s with hid := { s.hid with phase := p } }

/-- `EXT_SIZE`: the geometry; a grid of fewer than 48 channels is `NotSteganographic` without a read (45_extractor.md
R212, R225). -/
def extSizeStep (s : State) : Result :=
  withGeometry s fun t =>
    if 3 * (t.hid.geom.1 * t.hid.geom.2) < headerSyms then failExtract .notSteganographic t
    else .next { t with hid := { t.hid with k := 0, acc := [], phase := .extHdr } }

/-- `EXT_HDR`: one header symbol; the parse follows the 48th (45_extractor.md R213, R225). -/
def extHdrStep (s : State) : Result :=
  nextSymbol s fun t => .next (if t.hid.k = headerSyms then t.enter .extParse else t)

/-- `EXT_PARSE`: the marker, then KIND, PLEN and NEEDED (45_extractor.md R214, R215, R216, R225). -/
def extParseStep (s : State) : Result :=
  match parseHeader (unpack s.hid.acc) with
  | none => failExtract .notSteganographic s
  | some (k, len) =>
    let t := s.writeHeader k len
    .next { t with hid := { t.hid with hk := k, hl := len, needed := neededSyms len, phase := .extCheck } }

/-- `EXT_CHECK`: an image too small for the declared payload is `CapacityExceeded`; else the payload phase, from pixel 0
under RESCAN (45_extractor.md R218, R225, R226). -/
def extCheckStep (s : State) : Result :=
  if 3 * (s.hid.geom.1 * s.hid.geom.2) < s.hid.needed then failExtract .capacityExceeded s
  else if s.cfg.rescan then .next { s with hid := { s.hid with k := 0, acc := [], phase := .extPay } }
  else .next (s.enter .extPay)

/-- `EXT_PAY`: one payload symbol, or the end of the scan (45_extractor.md R219, R224, R225). -/
def extPayStep (s : State) : Result :=
  if s.hid.k = s.hid.needed then .next (s.enter .extDec)
  else nextSymbol s fun t => .next t

/-- `EXT_DEC`: an unencrypted payload as it is; an encrypted one needs the password and the cipher (45_extractor.md R220
to R223, R225). `key` is F. PWD is read only for an encrypted marker with F = 1 (10_state.md R34). -/
def extDecStep (key : Bool) (s : State) : Result :=
  match s.hid.hk, key with
  | .unencrypted, _ => finishWithBout s (payloadOf s.hid.acc s.hid.needed)
  | .encrypted, false => failExtract .invalidKeyOrData s
  | .encrypted, true =>
    operand .pwd s.pwd fun pwd =>
      match Config.decrypt (payloadOf s.hid.acc s.hid.needed) pwd with
      | none => failExtract .invalidKeyOrData s
      | some r => finishWithBout s r

/-- The step that PHASE names (45_extractor.md R225). A PHASE that is not EXTRACT's own begins at EXT_SIZE; no run has one
there (log entry 20). -/
def extractStep (key : Bool) (s : State) : Result :=
  match s.hid.phase with
  | .extHdr => extHdrStep s
  | .extParse => extParseStep s
  | .extCheck => extCheckStep s
  | .extPay => extPayStep s
  | .extDec => extDecStep key s
  | .idle | .embGate | .embWrite | .extSize => extSizeStep s

/-- EXTRACT: F = 0 (45_extractor.md R210). -/
def execExtract (s : State) : Result := extractStep false s

/-- EXTRACT KEY: F = 1 (45_extractor.md R210). -/
def execExtractKey (s : State) : Result := extractStep true s

/-! ### The whole command (45_extractor.md R210)

Not run by the machine: the step form is; a statement says that the two agree. -/

/-- `sym(k)`: the low bits of channel `k mod 3` of pixel `k div 3` (45_extractor.md R210, 00_scope.md R15). -/
def gridSym (m : Memory) (k : Nat) : Sym :=
  channelSym ((Memory.readPixel m (k / 3)).channel (k % 3))

/-- `scan(0, n)` (45_extractor.md R210). -/
def scanSyms (m : Memory) (n : Nat) : Syms := (List.range n).map (gridSym m)

/-- What the header phase finds in a grid: `none` is `NotSteganographic` (45_extractor.md R210, R212, R214). -/
def headerOf (g : Grid) : Option (Kind × BitVec 64) :=
  if 3 * (g.w * g.h) < headerSyms then none else parseHeader (unpack (scanSyms g.mem headerSyms))

/-- EXTRACT as one function, on the state in which the command starts (45_extractor.md R210). RESCAN does not enter: the
two scans give the same symbols (R226). -/
def extractWhole (key : Bool) (s : State) : Result :=
  withGeometry s fun t =>
    match headerOf t.grid with
    | none => failExtract .notSteganographic t
    | some (k, len) =>
      let u := t.writeHeader k len
      if 3 * (t.grid.w * t.grid.h) < neededSyms len then failExtract .capacityExceeded u
      else
        let p := payloadOf (scanSyms t.grid.mem (neededSyms len)) (neededSyms len)
        match k, key with
        | .unencrypted, _ => finishWithBout u p
        | .encrypted, false => failExtract .invalidKeyOrData u
        | .encrypted, true =>
          operand .pwd u.pwd fun pwd =>
            match Config.decrypt p pwd with
            | none => failExtract .invalidKeyOrData u
            | some r => finishWithBout u r

end Sys2Proof.Machine
end

