-- ==== Sys2Proof/Machine/Dispatch.lean ====
section
/-! DEFINITION. The meaning of every command: what the core does in one step of it. -/

namespace Sys2Proof.Machine

/-- One step of a command: all of a one-step command, the step that PHASE names of EMBED and EXTRACT (92_eei_decisions.md
D18). -/
def exec (i : Instr) (s : State) : Host.Outcome State Fault Refusal :=
  match i with
  | .nop => Sys2Proof.Machine.execNop s
  | .pack align => Sys2Proof.Machine.execPack align s
  | .unpack => Sys2Proof.Machine.execUnpack s
  | .buildFrameU => Sys2Proof.Machine.execBuildFrameU s
  | .buildFrameE => Sys2Proof.Machine.execBuildFrameE s
  | .parseHeader => Sys2Proof.Machine.execParseHeader s
  | .maxPayload => Sys2Proof.Machine.execMaxPayload s
  | .checkCapacity => Sys2Proof.Machine.execCheckCapacity s
  | .embed => Sys2Proof.Machine.execEmbed s
  | .extract => Sys2Proof.Machine.execExtract s
  | .extractKey => Sys2Proof.Machine.execExtractKey s

end Sys2Proof.Machine
end

