-- ==== Sys2Proof/Machine/HostPort.lean ====
section
/-! DEFINITION. What surrounds the meanings: issuing a command (30_encoding.md R90), the core's own turn, the actions of
the host and of the other agents (30_encoding.md R102, R103; 20_memory.md R75; 70_reset_and_hazards.md R270 to R272), and
placing a command for the next step. -/

namespace Sys2Proof.Machine

/-- Only the host's script changes. -/
def State.withScript (s : State) (script : List Action) : State :=
  { s with host := { s.host with script := script } }

/-! ### Commands -/

/-- A host write of CMD while no command runs: the word is taken, an illegal one completes at once, a legal one takes its
first step (30_encoding.md R90, R99; log entry 1). -/
def issue (w : Word) (s : State) : Result :=
  match decode w with
  | .error _ => .next ((s.accept w .idle).complete (some .illegalCommand))
  | .ok i => exec i (s.accept w (startPhase i))

/-- `SET CMD = w`: ignored while BUSY (10_state.md R22). -/
def hostSetCmd (w : Word) (s : State) : Result :=
  if s.busy then .next s else issue w s

/-- The core's turn: the next step of the running command, OPW's; nothing while no command runs, since the core waits for
a CMD write (60_exceptions.md R256). -/
def coreTurn (s : State) : Result :=
  if s.busy then
    match decode s.hid.opw with
    | .error _ => .next (s.complete (some .illegalCommand))
    | .ok i => exec i s
  else .next s

/-! ### The grid's other users (20_memory.md R75) -/

/-- EMBED runs. -/
def State.embedding (s : State) : Bool :=
  s.busy && (s.hid.phase == .embGate || s.hid.phase == .embWrite)

/-- EXTRACT runs. -/
def State.extracting (s : State) : Bool :=
  s.busy && (s.hid.phase == .extSize || s.hid.phase == .extHdr || s.hid.phase == .extParse ||
    s.hid.phase == .extCheck || s.hid.phase == .extPay || s.hid.phase == .extDec)

/-- Another agent's `get(x, y)`: a race during EMBED, without effect on anything but the reader otherwise (20_memory.md
R64, R75). -/
def otherGet (x y : Nat) (s : State) : Result :=
  if s.embedding then .fault .gridRace
  else
    match s.grid.get x y with
    | .ok p => .next { s with host := { s.host with lastRead := some (.pixel p) } }
    | .error f => .fault f

/-- Another agent's `set(x, y, p)`: a race during EMBED and EXTRACT (20_memory.md R75). -/
def otherSet (x y : Nat) (p : Pixel) (s : State) : Result :=
  if s.embedding || s.extracting then .fault .gridRace
  else
    match s.grid.set x y p with
    | .ok g => .next { s with grid := g }
    | .error f => .fault f

/-- `GRID w x h = pixels`: a new grid (30_encoding.md R102). During EMBED and EXTRACT it is a change of geometry, or a race
where the geometry stays (60_exceptions.md R244, 20_memory.md R75; log entry 16). -/
def gridSetup (w h : Nat) (pixels : List Pixel) (s : State) : Result :=
  if s.embedding || s.extracting then
    (if w = s.grid.w ∧ h = s.grid.h then .fault .gridRace else .fault .collaboratorFailure)
  else if pixels.length = w * h then
    .next { s with grid := { s.grid with w := w, h := h, mem := Memory.ofPixels 0 pixels } }
  else .refused .gridSizeMismatch

/-! ### Reset -/

/-- The grid a reset leaves: while EMBED writes, a new prefix of `j` pixels and old pixels after it, `j` drawn from
`0 .. len(STREAM)/3`; otherwise the grid as it is (70_reset_and_hazards.md R271, R272; log entry 10). -/
def memAfterReset (s : State) : Memory :=
  if s.busy ∧ s.hid.phase = .embWrite then
    embedPixels s.hid.stream s.hid.memBefore (Config.freeNat s.draws % (s.hid.stream.length / 3 + 1))
  else s.grid.mem

/-- The reset event: every register and hidden element at its reset value; the grid's geometry, the host and the
parameters are not the core's (10_state.md R39, 70_reset_and_hazards.md R271, R272). -/
def State.doReset (s : State) : State :=
  { State.reset with
    grid := { s.grid with mem := memAfterReset s }, host := s.host, cfg := s.cfg, draws := s.draws + 1 }

/-! ### The host's actions (30_encoding.md R102) -/

/-- `GET r`. -/
def hostGet (r : ReadReg) (s : State) : Result :=
  .next (hostRead s r).2

/-- `COPY BIN <- BOUT`: `SET BIN = GET BOUT`. -/
def copyBinBout (s : State) : Result :=
  match hostRead s .bout with
  | (.bytes b, t) => hostSetBin t b
  | (_, t) => .next t

/-- `STOPIF ERR`: the program ends where ERR is not 0. -/
def stopIfErr (s : State) : Result :=
  if s.err ≠ 0 then .next (s.withScript []) else .next s

/-- `ENCRYPT source, pwd -> BIN`: the host calls `encrypt` and writes BIN (60_exceptions.md R245). -/
def encryptToBin (source : EncryptSource) (pwd : Bytes) (s : State) : Result :=
  match source with
  | .literal b => hostSetBin s (Config.encrypt b pwd)
  | .bin =>
    match hostValue s .bin with
    | (.bytes b, t) => hostSetBin t (Config.encrypt b pwd)
    | (_, t) => .next t

/-- `WAIT` with the actions after it: the host reads STATUS; once DONE = 1 it goes on, and until then the core has its
turn and the host waits again. -/
def waitDone (rest : List Action) (s : State) : Result :=
  if s.done then .next (s.withScript rest) else coreTurn s

/-- One action, on a state whose script still begins with it; `rest` follows it. -/
def act (a : Action) (rest : List Action) (s : State) : Result :=
  match a with
  | .setCmd w => hostSetCmd w (s.withScript rest)
  | .setGw n => hostSetGw (s.withScript rest) n
  | .setGh n => hostSetGh (s.withScript rest) n
  | .setPwd p => hostSetPwd (s.withScript rest) p
  | .setBin b => hostSetBin (s.withScript rest) b
  | .setSin y => hostSetSin (s.withScript rest) y
  | .get r => hostGet r (s.withScript rest)
  | .wait => waitDone rest s
  | .copyBinBout => copyBinBout (s.withScript rest)
  | .stopIfErr => stopIfErr (s.withScript rest)
  | .gridSetup w h pixels => gridSetup w h pixels (s.withScript rest)
  | .encryptToBin source pwd => encryptToBin source pwd (s.withScript rest)
  | .gridGet x y => otherGet x y (s.withScript rest)
  | .gridSet x y p => otherSet x y p (s.withScript rest)
  | .gridFailing fails => .next { s.withScript rest with grid := { s.grid with fails := fails } }
  | .reset => .next (s.withScript rest).doReset
  | .coreTurn => coreTurn (s.withScript rest)

/-- One step of the machine: the next action, or the core's turn when none is left. -/
def stepOf (s : State) : Result :=
  match s.host.script with
  | [] => coreTurn s
  | a :: rest => act a rest s

/-! ### Programs (30_encoding.md R102, R103) -/

/-- A command line: `SET CMD = <encoding>` and `WAIT`. -/
def commandLine (i : Instr) : List Action := [.setCmd (encode i), .wait]

/-- `HIDE U`. -/
def hideU : List Action :=
  commandLine .buildFrameU ++ [.stopIfErr, .copyBinBout] ++ commandLine .embed

/-- `HIDE E <pwd>`. -/
def hideE (pwd : Bytes) : List Action :=
  .encryptToBin .bin pwd :: (commandLine .buildFrameE ++ [.stopIfErr, .copyBinBout] ++ commandLine .embed)

/-- `REVEAL`. -/
def reveal : List Action := commandLine .extract

/-- `REVEAL KEY <pwd>`. -/
def revealKey (pwd : Bytes) : List Action := .setPwd pwd :: commandLine .extractKey

/-- `FITS`. -/
def fits : List Action := commandLine .checkCapacity

/-! ### Placing a command for the next step -/

/-- `s` with a write of the table word to CMD as its next action, and with no command running, since a running one would
have the write ignored (10_state.md R22; log entry 3). -/
def placeCommand (s : State) (nbits w : Nat) : State :=
  let t := s.withScript (.setCmd (BitVec.ofNat 32 (tableWord nbits w)) :: s.host.script)
  if s.busy then { t with status := 0, hid := { t.hid with phase := .idle } } else t

end Sys2Proof.Machine
end

