-- ==== Sys2Proof/Machine/Step.lean ====
section
/-! DEFINITION. The step of the machine, and the state whose next step runs a given word. -/

namespace Sys2Proof.Machine

/-- One step: the next action of the host or of another agent, or the core's turn (10_state.md R20, 30_encoding.md R90,
R102). -/
def step (s : State) : Host.Outcome State Fault Refusal := stepOf s

/-- `s` with the command word of a table row placed where the next step takes it (log entry 3). -/
def State.withFetchWord (s : State) (nbits w : Nat) : State := placeCommand s nbits w

end Sys2Proof.Machine
end

