-- ==== Sys2Proof/Safety.lean ====
section
/-! DEFINITION. The terms claims are stated in: what of a state is visible, and the invariant of the machine.

The invariant says what holds between two steps: STATUS is one of the words of 60_exceptions.md R241, PHASE is IDLE
exactly when no command runs (10_state.md R32), the grid's bytes are canonical and exist, and the hidden state of a
running EMBED or EXTRACT is what the step forms have built so far (44_embedder.md R197, 45_extractor.md R225). -/

namespace Sys2Proof.Machine

/-- A state without its hidden part, which no host access reads (10_state.md R32): the rest is what a program observes. -/
def State.visible (s : State) : State := { s with hid := Hidden.reset }

/-- An outcome without the hidden part of its state. -/
def visibleResult : Result → Result
  | .next s => .next s.visible
  | .fault f => .fault f
  | .refused r => .refused r

/-- A state in which a command has completed with the STATUS word `status`: nothing else than STATUS and PHASE differs
(60_exceptions.md R241). -/
def State.completedWith (s : State) (status : Word) : State :=
  { s with status := status, hid := { s.hid with phase := .idle } }

/-- A length a register bound admits, where one is given (00_scope.md R7). -/
def Fits (n : Nat) (bound : Option Nat) : Prop := ∀ m, bound = some m → n ≤ m

/-- An outcome after which the command that was issued no longer runs. -/
def Settled : Result → Prop
  | .next s => s.busy = false
  | .fault _ => True
  | .refused _ => True

/-- How a run that hides the ciphertext `c` from state `s` on and reveals it with `pwd` ends (45_extractor.md R220 to R223,
R231): with the cipher's `decrypt(c, pwd)` in BOUT, KIND 1 and PLEN the ciphertext's length; with InvalidKeyOrData where the
cipher fails; and refused where its result is longer than BUF_BYTES (10_state.md R35). -/
def RevealsCiphertext (s : State) (c pwd : Bytes) (r : Result) : Prop :=
  match Config.decrypt c pwd with
  | none => ∃ t : State, r = .next t ∧ t.host.script = [] ∧ t.status = 0x32
  | some y =>
    (Fits y.length s.cfg.bufBytes →
      ∃ t : State, r = .next t ∧ t.host.script = [] ∧ t.status = 0x02 ∧ t.bout = .written y ∧ t.kind = .written 1 ∧
        t.plen = .written (BitVec.ofNat 64 c.length)) ∧
    (¬Fits y.length s.cfg.bufBytes → r = .refused .resultTooLong)

/-- EXTRACT and EXTRACT KEY by the flag F (30_encoding.md R97). -/
def extractWith (key : Bool) : Instr := if key then .extractKey else .extract

/-- The channel address EMBED's next pixel write begins at, as the step computes it: the pixel K div 3 by its coordinates
in the sampled width, and the collaborator's place for them (20_memory.md R61, R62). -/
def embedAddress (s : State) : Nat :=
  3 * (s.hid.k / 3 / s.hid.geom.1 * s.grid.w + s.hid.k / 3 % s.hid.geom.1)

/-- STATUS is 0 (after reset), the running word, or the word of a completed outcome (10_state.md R38). -/
def StatusLegal (w : Word) : Prop := w = 0 ∨ w = Status.running ∨ ∃ e, w = Status.completed e

/-- What holds while EMBED writes (44_embedder.md R191 to R194, R197): the frame in BIN passed the gate, STREAM is its
packing, the cursor stands at a pixel of it, and the grid is the old one with the pixels before the cursor written. -/
structure EmbedProgress (s : State) : Prop where
  geometry : s.hid.geom = (s.grid.w, s.grid.h)
  gate : ∃ frame, s.bin = .written frame ∧ frame.length ≤ maxPayload s.grid.w s.grid.h ∧
    s.hid.stream = pack frame embedAlign
  cursor : ∃ n, n ≤ s.hid.stream.length / 3 ∧ s.hid.k = 3 * n ∧
    s.grid.mem = embedPixels s.hid.stream s.hid.memBefore n
  before : Grid.wf { s.grid with mem := s.hid.memBefore }

/-- The latch holds the pixel in the middle of which the cursor stands (10_state.md R32, 45_extractor.md R225). -/
def LatchCurrent (s : State) : Prop :=
  s.hid.k % 3 ≠ 0 → s.hid.latch = Memory.readPixel s.grid.mem (s.hid.k / 3)

/-- What EXTRACT knows after the header parse (45_extractor.md R214, R215, R216). -/
structure HeaderKnown (s : State) : Prop where
  header : headerOf s.grid = some (s.hid.hk, s.hid.hl)
  kind : s.kind = .written s.hid.hk.code
  plen : s.plen = .written s.hid.hl
  needed : s.hid.needed = neededSyms s.hid.hl

/-- What holds in each phase of EXTRACT after its first step (45_extractor.md R225). -/
def ExtractProgress (s : State) : Prop :=
  match s.hid.phase with
  | .extHdr => s.hid.k < headerSyms ∧ s.hid.acc = scanSyms s.grid.mem s.hid.k ∧ LatchCurrent s
  | .extParse => s.hid.k = headerSyms ∧ s.hid.acc = scanSyms s.grid.mem headerSyms
  | .extCheck => s.hid.k = headerSyms ∧ s.hid.acc = scanSyms s.grid.mem headerSyms ∧ HeaderKnown s
  | .extPay =>
    HeaderKnown s ∧ s.hid.needed ≤ 3 * (s.grid.w * s.grid.h) ∧ s.hid.k ≤ s.hid.needed ∧
      s.hid.acc = scanSyms s.grid.mem s.hid.k ∧ LatchCurrent s
  | .extDec =>
    HeaderKnown s ∧ s.hid.needed ≤ 3 * (s.grid.w * s.grid.h) ∧ s.hid.acc = scanSyms s.grid.mem s.hid.needed
  | .idle | .embGate | .embWrite | .extSize => True

/-- The phases of EXTRACT in which the geometry has been sampled and found large enough (45_extractor.md R212). -/
def Phase.scanning : Phase → Bool
  | .extHdr | .extParse | .extCheck | .extPay | .extDec => true
  | .idle | .embGate | .embWrite | .extSize => false

/-- The word being executed is that of the command PHASE belongs to (10_state.md R32). -/
def PhaseMatches (p : Phase) (w : Word) : Prop :=
  match p with
  | .idle => True
  | .embGate | .embWrite => decode w = .ok .embed
  | .extSize | .extHdr | .extParse | .extCheck | .extPay | .extDec =>
    decode w = .ok .extract ∨ decode w = .ok .extractKey

/-- The invariant of the machine between two steps. -/
structure Inv (s : State) : Prop where
  status : StatusLegal s.status
  idle : s.busy = false ↔ s.hid.phase = .idle
  grid : Grid.wf s.grid
  command : PhaseMatches s.hid.phase s.hid.opw
  embed : s.hid.phase = .embWrite → EmbedProgress s
  geometry : s.hid.phase.scanning = true →
    s.hid.geom = (s.grid.w, s.grid.h) ∧ headerSyms ≤ 3 * (s.grid.w * s.grid.h)
  extract : ExtractProgress s

end Sys2Proof.Machine
end

