-- ==== Sys2Proof/Certificates/Slice0/Obligations.lean ====
section
/-! DEFINITION. The statements about the model, for the provers. Each docstring names the rule of spec/ it formalises;
"derived" marks a statement that rests on several rules, or in part on a choice of the model (log entries). -/

open Sys2Proof Sys2Proof.Machine

/-! ## Encoding -/

/-- The words of 30_encoding.md R101 stand for their commands: every row of the opcode table, PACK at three operands. -/
def Obligations.CommandWordsDecode : Prop :=
  decode 0x00000000 = .ok .nop ∧ decode 0x00000101 = .ok (.pack 1) ∧ decode 0x00000301 = .ok (.pack 3) ∧
  decode 0x0000FF01 = .ok (.pack 255) ∧ decode 0x00000002 = .ok .unpack ∧ decode 0x00000003 = .ok .buildFrameU ∧
  decode 0x00000013 = .ok .buildFrameE ∧ decode 0x00000004 = .ok .parseHeader ∧ decode 0x00000005 = .ok .maxPayload ∧
  decode 0x00000006 = .ok .checkCapacity ∧ decode 0x00000007 = .ok .embed ∧ decode 0x00000008 = .ok .extract ∧
  decode 0x00000018 = .ok .extractKey

/-- The encoding examples of 30_encoding.md R104: three words of PACK and four illegal words. -/
def Obligations.EncodingExamples : Prop :=
  encode (.pack 3) = 0x00000301 ∧ encode (.pack 1) = 0x00000101 ∧ encode (.pack 255) = 0x0000FF01 ∧
  decode 0x00000001 = .error .alignZero ∧ decode 0x00000012 = .error .flagNotAllowed ∧
  decode 0x00000109 = .error (.reservedOpcode 9) ∧ decode 0x80000007 = .error .reservedBits

/-- Decoding the word of a command gives the command back, for every command and operand (30_encoding.md R97, R101). -/
def Obligations.DecodeOfEncode : Prop :=
  ∀ i : Instr, i.wf = true → decode (encode i) = .ok i

/-- A legal word has one reading: the command it decodes to is well formed and encodes to it (30_encoding.md R98, R100). -/
def Obligations.EncodeOfDecode : Prop :=
  ∀ (w : Word) (i : Instr), decode w = .ok i → i.wf = true ∧ encode i = w

/-- Legality of a command word (30_encoding.md R98): the five conditions on its fields, and the 265 legal words, 255 of
them PACK's. -/
def Obligations.LegalWords : Prop :=
  (∀ w : Word, (∃ i, decode w = .ok i) ↔
    (w.extractLsb' 16 16 = 0 ∧ w.extractLsb' 5 3 = 0 ∧ (w.extractLsb' 0 4).toNat ≤ 8 ∧
      (w.getLsbD 4 = false ∨ w.extractLsb' 0 4 = 3 ∨ w.extractLsb' 0 4 = 8) ∧
      (if w.extractLsb' 0 4 = 1 then w.extractLsb' 8 8 ≠ 0 else w.extractLsb' 8 8 = 0))) ∧
  (∀ w : Word, (∃ i, decode w = .ok i) ↔ w ∈ everyCommand.map encode) ∧
  (everyCommand.map encode).Nodup ∧ everyCommand.length = 265 ∧
  (everyCommand.filter fun i => match i with | .pack _ => true | _ => false).length = 255 ∧
  (∀ i : Instr, i.wf = true ↔ i ∈ everyCommand)

/-! ## Issuing and running commands -/

/-- A write of CMD runs the decoded command (30_encoding.md R90): ignored while BUSY; an illegal word completes with
IllegalCommand; a legal one runs its rule with STATUS = 1 and OPW = w. That the write and the command's first step are one
step of the machine is the model's (log entry 1). -/
def Obligations.StepRunsIssuedCommand : Prop :=
  ∀ (s : State) (w : Word) (rest : List Action), s.host.script = .setCmd w :: rest →
    (s.busy = true → step s = .next (s.withScript rest)) ∧
    (∀ e, s.busy = false → decode w = .error e →
      step s = .next (State.completedWith
        { s with hid := { s.hid with opw := w }, host := { s.host with script := rest } } 0x42)) ∧
    (∀ i, s.busy = false → decode w = .ok i →
      step s = exec i
        { s with
          status := 0x01
          hid := { s.hid with opw := w, phase := startPhase i }
          host := { s.host with script := rest } })

/-- While a command runs, the core's turn is one step of the command in OPW: when no other agent has an action left, when
the turn is left to the core, and while the host waits (44_embedder.md R197, 45_extractor.md R225; log entries 1, 2). -/
def Obligations.StepRunsRunningCommand : Prop :=
  ∀ (s : State) (i : Instr), s.busy = true → decode s.hid.opw = .ok i →
    (s.host.script = [] → step s = exec i s) ∧
    (∀ rest, s.host.script = .coreTurn :: rest → step s = exec i (s.withScript rest)) ∧
    (∀ rest, s.host.script = .wait :: rest → s.done = false → step s = exec i s)

/-- An illegal word completes at once with IllegalCommand and no other effect; the opcodes 9 to 15 are illegal; NOP has
one encoding (30_encoding.md R99). -/
def Obligations.IllegalWordCompletesAtOnce : Prop :=
  (∀ (s : State) (w : Word) (e : DecodeError) (rest : List Action),
    decode w = .error e → s.busy = false → s.host.script = .setCmd w :: rest →
      ∃ t, step s = .next t ∧ t.status = 0x42 ∧
        t = { s with status := t.status, hid := t.hid, host := { s.host with script := rest } }) ∧
  (∀ w : Word, 9 ≤ (w.extractLsb' 0 4).toNat → ∃ e, decode w = .error e) ∧
  (∀ w : Word, decode w = .ok .nop ↔ w = 0)

/-- After a step of a running command, it still runs with STATUS = 1 and a phase of its own, or it has completed with a
STATUS word of 60_exceptions.md R241 and PHASE is IDLE (10_state.md R32, R38). -/
def Obligations.CommandRunsOrCompletes : Prop :=
  ∀ (i : Instr) (s t : State), s.status = 0x01 → exec i s = .next t →
    (t.status = 0x01 ∧ t.hid.phase ≠ .idle ∧ (i = .embed ∨ i = .extract ∨ i = .extractKey)) ∨
    (t.hid.phase = .idle ∧
      (t.status = 0x02 ∨ t.status = 0x12 ∨ t.status = 0x22 ∨ t.status = 0x32 ∨ t.status = 0x42))

/-- `complete(e)` (60_exceptions.md R241): BUSY 0, DONE 1, the error's code in ERR, PHASE IDLE, and nothing else. -/
def Obligations.CompletionWritesStatus : Prop :=
  ∀ (s : State) (e : Option CmdError),
    (s.complete e).status.getLsbD 0 = false ∧ (s.complete e).status.getLsbD 1 = true ∧
    (s.complete e).status.extractLsb' 2 2 = 0 ∧ (s.complete e).status.extractLsb' 8 24 = 0 ∧
    (s.complete e).status.extractLsb' 4 4 =
      (match e with
        | none => 0
        | some .capacityExceeded => 1
        | some .notSteganographic => 2
        | some .invalidKeyOrData => 3
        | some .illegalCommand => 4) ∧
    (s.complete e).hid.phase = .idle ∧
    s.complete e = { s with status := (s.complete e).status, hid := { s.hid with phase := .idle } }

/-- A running command that completes with an error (60_exceptions.md R248): the grid, the operand registers, the parameters
and the host's side are as they were, and the core is idle. -/
def Obligations.ErrorEntryIsPrecise : Prop :=
  ∀ (i : Instr) (s t : State), s.status = 0x01 → exec i s = .next t → t.busy = false → t.err ≠ 0 →
    t.grid = s.grid ∧ t.gw = s.gw ∧ t.gh = s.gh ∧ t.pwd = s.pwd ∧ t.bin = s.bin ∧ t.sin = s.sin ∧
    t.cfg = s.cfg ∧ t.host = s.host ∧ t.hid.phase = .idle ∧
    (t.status = 0x12 ∨ t.status = 0x22 ∨ t.status = 0x32 ∨ t.status = 0x42)

/-- The frame of every command (10_state.md R21, column "written by the core in"): no step of a command writes an operand
register, the parameters or the host's side; a result register changes only in the commands named there; only EMBED
changes the grid, and of the grid only its bytes. -/
def Obligations.CommandsWriteOnlyTheirRegisters : Prop :=
  ∀ (i : Instr) (s t : State), exec i s = .next t →
    t.gw = s.gw ∧ t.gh = s.gh ∧ t.pwd = s.pwd ∧ t.bin = s.bin ∧ t.sin = s.sin ∧ t.cfg = s.cfg ∧ t.host = s.host ∧
    (i ≠ .maxPayload → t.cap = s.cap) ∧
    (i ≠ .parseHeader → i ≠ .extract → i ≠ .extractKey → t.kind = s.kind ∧ t.plen = s.plen) ∧
    (i ≠ .unpack → i ≠ .buildFrameU → i ≠ .buildFrameE → i ≠ .extract → i ≠ .extractKey → t.bout = s.bout) ∧
    ((∀ a, i ≠ .pack a) → t.sout = s.sout) ∧
    (i ≠ .embed → ∀ a, Memory.read t.grid.mem a = Memory.read s.grid.mem a) ∧
    t.grid.w = s.grid.w ∧ t.grid.h = s.grid.h ∧ t.grid.fails = s.grid.fails

/-- Which operand each command needs, and the fault for an UNWRITTEN one, which no other operand and no other command raises
(10_state.md R34, 60_exceptions.md R246). EXTRACT KEY needs PWD in its last step, for an encrypted marker only
(45_extractor.md R225); NOP and EXTRACT need none. Derived: where several operands are UNWRITTEN, the one that the
pseudocode reads first is named (MAX_PAYLOAD: GW, GH; CHECK_CAPACITY: BIN, GW, GH), which is the model's reading of
43_capacity.md R171 and R173 (log entry 4). -/
def Obligations.UnwrittenOperandFaults : Prop :=
  (∀ (s : State) (a : BitVec 8), a ≠ 0 → s.bin = .unwritten → exec (.pack a) s = .fault (.unwrittenOperand .bin)) ∧
  (∀ s : State, s.sin = .unwritten → exec .unpack s = .fault (.unwrittenOperand .sin)) ∧
  (∀ s : State, s.bin = .unwritten →
    exec .buildFrameU s = .fault (.unwrittenOperand .bin) ∧ exec .buildFrameE s = .fault (.unwrittenOperand .bin) ∧
    exec .parseHeader s = .fault (.unwrittenOperand .bin) ∧
    exec .checkCapacity s = .fault (.unwrittenOperand .bin) ∧
    (s.hid.phase = .embGate → exec .embed s = .fault (.unwrittenOperand .bin))) ∧
  (∀ s : State, s.gw = .unwritten → exec .maxPayload s = .fault (.unwrittenOperand .gw) ∧
    (∀ b, s.bin = .written b → exec .checkCapacity s = .fault (.unwrittenOperand .gw))) ∧
  (∀ (s : State) (n : Nat), s.gw = .written n → s.gh = .unwritten →
    exec .maxPayload s = .fault (.unwrittenOperand .gh) ∧
    (∀ b, s.bin = .written b → exec .checkCapacity s = .fault (.unwrittenOperand .gh))) ∧
  (∀ s : State, s.hid.phase = .extDec → s.hid.hk = .encrypted → s.pwd = .unwritten →
    exec .extractKey s = .fault (.unwrittenOperand .pwd)) ∧
  (∀ (i : Instr) (s : State) (r : RegName), exec i s = .fault (.unwrittenOperand r) →
    (r = .bin ∧ s.bin = .unwritten ∧ ((∃ a, i = .pack a) ∨ i = .buildFrameU ∨ i = .buildFrameE ∨ i = .parseHeader ∨
      i = .checkCapacity ∨ i = .embed)) ∨
    (r = .sin ∧ s.sin = .unwritten ∧ i = .unpack) ∨
    (r = .gw ∧ s.gw = .unwritten ∧ (i = .maxPayload ∨ i = .checkCapacity)) ∨
    (r = .gh ∧ s.gh = .unwritten ∧ (i = .maxPayload ∨ i = .checkCapacity)) ∨
    (r = .pwd ∧ s.pwd = .unwritten ∧ i = .extractKey ∧ s.hid.phase = .extDec ∧ s.hid.hk = .encrypted))

/-! ## The control command -/

/-- NOP (40_control.md R120): it completes without error and changes nothing else; a word with OP = 0 and another field
nonzero is illegal. -/
def Obligations.NopCompletes : Prop :=
  (∀ s : State, exec .nop s = .next (s.completedWith 0x02)) ∧
  decode 0x00000000 = .ok .nop ∧
  (∀ w : Word, w.extractLsb' 0 4 = 0 → w ≠ 0 → ∃ e, decode w = .error e)

/-! ## The symbol codec -/

/-- `pack(B, a)` (41_symbol_codec.md R130): symbol `4n + j` is the bits `7-2j : 6-2j` of byte `n`; then fewer than `a` zero
symbols, to a length that is a multiple of `a`. -/
def Obligations.PackFunction : Prop :=
  ∀ (b : Bytes) (a : Nat), 1 ≤ a →
    (∃ pad, pad < a ∧ (pack b a).length = 4 * b.length + pad) ∧ (pack b a).length % a = 0 ∧
    (∀ n j, (hn : n < b.length) → j < 4 → (pack b a)[4 * n + j]? = some ((b[n]).extractLsb' (6 - 2 * j) 2)) ∧
    (∀ k, 4 * b.length ≤ k → k < (pack b a).length → (pack b a)[k]? = some 0)

/-- `unpack(S)` (41_symbol_codec.md R131, R135): exactly `len(S) div 4` bytes, each
`(s0 << 6) | (s1 << 4) | (s2 << 2) | s3` of its four symbols. -/
def Obligations.UnpackFunction : Prop :=
  ∀ y : Syms,
    (unpack y).length = y.length / 4 ∧
    ∀ j, (hj : 4 * j + 3 < y.length) →
      (unpack y)[j]? = some
        (((y[4 * j]).setWidth 8 <<< 6) ||| ((y[4 * j + 1]).setWidth 8 <<< 4) |||
          ((y[4 * j + 2]).setWidth 8 <<< 2) ||| (y[4 * j + 3]).setWidth 8)

/-- The round-trip law (41_symbol_codec.md R132): for an alignment of 1 to 4 `unpack` inverts `pack`; for 8 it need not. -/
def Obligations.CodecRoundTrip : Prop :=
  (∀ (b : Bytes) (a : Nat), 1 ≤ a → a ≤ 4 → unpack (pack b a) = b) ∧
  unpack (pack [0xE4] 8) = [0xE4, 0x00]

/-- PACK (41_symbol_codec.md R133): its result and its encoding, the operand it needs, the bound of SOUT, and the corner
cases. -/
def Obligations.PackCommand : Prop :=
  (∀ (s : State) (b : Bytes) (a : BitVec 8), s.bin = .written b → a ≠ 0 →
    (Fits (pack b a.toNat).length s.cfg.bufSyms →
      exec (.pack a) s = .next (State.completedWith { s with sout := .written (pack b a.toNat) } 0x02)) ∧
    (¬Fits (pack b a.toNat).length s.cfg.bufSyms → exec (.pack a) s = .refused .resultTooLong)) ∧
  (∀ (s : State) (a : BitVec 8), a ≠ 0 → s.bin = .unwritten → exec (.pack a) s = .fault (.unwrittenOperand .bin)) ∧
  (∀ a : BitVec 8, (encode (.pack a)).toNat = a.toNat * 2 ^ 8 + 1) ∧ decode 0x00000001 = .error .alignZero ∧
  (∀ a, pack [] a = []) ∧ (∀ b, (pack b 1).length = 4 * b.length) ∧ (∀ b, (pack b 4).length = 4 * b.length) ∧
  (∀ b, (pack b 255).length ≤ 4 * b.length + 254) ∧ pack [0x00] 1 = [0, 0, 0, 0] ∧ pack [0xFF] 1 = [3, 3, 3, 3] ∧
  pack [0xB4] 3 = [2, 3, 1, 0, 0, 0]

/-- UNPACK (41_symbol_codec.md R134): its result, the operand it needs, and the corner cases; BOUT's bound is 10_state.md
R35's (log entry 13). -/
def Obligations.UnpackCommand : Prop :=
  (∀ (s : State) (y : Syms), s.sin = .written y →
    (Fits (y.length / 4) s.cfg.bufBytes →
      exec .unpack s = .next (State.completedWith { s with bout := .written (unpack y) } 0x02)) ∧
    (¬Fits (y.length / 4) s.cfg.bufBytes → exec .unpack s = .refused .resultTooLong)) ∧
  (∀ s : State, s.sin = .unwritten → exec .unpack s = .fault (.unwrittenOperand .sin)) ∧
  decode 0x00000002 = .ok .unpack ∧
  (∀ y : Syms, y.length < 4 → unpack y = []) ∧ (∀ y : Syms, y.length = 5 → (unpack y).length = 1) ∧
  unpack [0, 1, 2, 3] = [0x1B]

/-! ## The frame codec -/

/-- Big-endian fields (42_frame_codec.md R150): byte `i` of an `n`-byte field is `v[8(n-i)-1 : 8(n-i)-8]`; `be_dec` is the
weighted sum; it inverts `be_enc`. -/
def Obligations.BigEndianFields : Prop :=
  (∀ v n : Nat, (beEnc v n).length = n ∧
    ∀ i, i < n → (beEnc v n)[i]? = some (BitVec.ofNat 8 (v / 2 ^ (8 * (n - 1 - i))))) ∧
  (∀ b : Bytes, beDec b = ((List.range b.length).map fun i => (b.getD i 0).toNat * 2 ^ (8 * (b.length - 1 - i))).sum) ∧
  (∀ v n : Nat, v < 2 ^ (8 * n) → beDec (beEnc v n) = v)

/-- `build_frame(P, enc)` (42_frame_codec.md R151, R152): the four marker bytes of the kind, the 8-byte big-endian length of
the payload, the payload; 12 bytes more than the payload. -/
def Obligations.BuildFrameFunction : Prop :=
  ∀ p : Bytes,
    buildFrame p .unencrypted = [0xDE, 0xAD, 0xC0, 0xDE] ++ beEnc p.length 8 ++ p ∧
    buildFrame p .encrypted = [0x13, 0x37, 0xC0, 0xDE] ++ beEnc p.length 8 ++ p ∧
    (∀ k, (buildFrame p k).length = 12 + p.length) ∧
    marker .unencrypted = 0xDEADC0DE ∧ marker .encrypted = 0x1337C0DE

/-- `parse_header(Hd)` (42_frame_codec.md R155, R158): the kind of the marker and the length field; every marker but the two
is NotSteganographic. -/
def Obligations.ParseHeaderFunction : Prop :=
  ∀ hd : Bytes, hd.length = 12 →
    (hd.take 4 = [0xDE, 0xAD, 0xC0, 0xDE] →
      parseHeader hd = some (.unencrypted, BitVec.ofNat 64 (beDec (hd.drop 4)))) ∧
    (hd.take 4 = [0x13, 0x37, 0xC0, 0xDE] →
      parseHeader hd = some (.encrypted, BitVec.ofNat 64 (beDec (hd.drop 4)))) ∧
    (hd.take 4 ≠ [0xDE, 0xAD, 0xC0, 0xDE] → hd.take 4 ≠ [0x13, 0x37, 0xC0, 0xDE] → parseHeader hd = none) ∧
    beDec (hd.drop 4) ≤ 2 ^ 64 - 1

/-- The header of a built frame parses to its kind and the exact byte length of its payload (42_frame_codec.md R153). -/
def Obligations.ParseOfBuiltFrame : Prop :=
  ∀ (p : Bytes) (k : Kind), p.length < 2 ^ 64 →
    ∃ len : BitVec 64, parseHeader ((buildFrame p k).take 12) = some (k, len) ∧ len.toNat = p.length

/-- BUILD_FRAME U and E (42_frame_codec.md R154): the result, the operand, the bound of BOUT, and the payload that is too
long, after which BOUT is unspecified (10_state.md R35). Derived: `draws`, the counter of the free values, is the model's own
field (log entry 8). -/
def Obligations.BuildFrameCommand : Prop :=
  (∀ (s : State) (p : Bytes), s.bin = .written p → p.length < 2 ^ 64 →
    (Fits (12 + p.length) s.cfg.bufBytes →
      exec .buildFrameU s = .next (State.completedWith { s with bout := .written (buildFrame p .unencrypted) } 0x02) ∧
      exec .buildFrameE s = .next (State.completedWith { s with bout := .written (buildFrame p .encrypted) } 0x02)) ∧
    (¬Fits (12 + p.length) s.cfg.bufBytes →
      exec .buildFrameU s = .refused .resultTooLong ∧ exec .buildFrameE s = .refused .resultTooLong)) ∧
  (∀ (s : State) (p : Bytes), s.bin = .written p → 2 ^ 64 ≤ p.length →
    ∃ y : Bytes, Fits y.length s.cfg.bufBytes ∧
      exec .buildFrameU s =
        .next (State.completedWith { s with bout := .written y, draws := s.draws + 1 } 0x42) ∧
      exec .buildFrameE s =
        .next (State.completedWith { s with bout := .written y, draws := s.draws + 1 } 0x42)) ∧
  (∀ s : State, s.bin = .unwritten →
    exec .buildFrameU s = .fault (.unwrittenOperand .bin) ∧ exec .buildFrameE s = .fault (.unwrittenOperand .bin)) ∧
  decode 0x00000003 = .ok .buildFrameU ∧ decode 0x00000013 = .ok .buildFrameE ∧
  buildFrame [] .unencrypted = [0xDE, 0xAD, 0xC0, 0xDE, 0, 0, 0, 0, 0, 0, 0, 0] ∧
  buildFrame [0x41] .encrypted = [0x13, 0x37, 0xC0, 0xDE, 0, 0, 0, 0, 0, 0, 0, 1, 0x41]

/-- PARSE_HEADER (42_frame_codec.md R156): KIND and PLEN from the first 12 bytes; a bad marker and a short operand complete
with an error, and KIND and PLEN are then unspecified (10_state.md R35). Derived: `draws`, the counter of the free values,
is the model's own field (log entry 8). -/
def Obligations.ParseHeaderCommand : Prop :=
  (∀ (s : State) (hd : Bytes), s.bin = .written hd → 12 ≤ hd.length →
    (hd.take 4 = [0xDE, 0xAD, 0xC0, 0xDE] →
      exec .parseHeader s = .next (State.completedWith
        { s with kind := .written 0, plen := .written (BitVec.ofNat 64 (beDec ((hd.drop 4).take 8))) } 0x02)) ∧
    (hd.take 4 = [0x13, 0x37, 0xC0, 0xDE] →
      exec .parseHeader s = .next (State.completedWith
        { s with kind := .written 1, plen := .written (BitVec.ofNat 64 (beDec ((hd.drop 4).take 8))) } 0x02)) ∧
    (hd.take 4 ≠ [0xDE, 0xAD, 0xC0, 0xDE] → hd.take 4 ≠ [0x13, 0x37, 0xC0, 0xDE] →
      ∃ k l, exec .parseHeader s = .next (State.completedWith
        { s with kind := .written k, plen := .written l, draws := s.draws + 2 } 0x22))) ∧
  (∀ (s : State) (hd : Bytes), s.bin = .written hd → hd.length < 12 →
    ∃ k l, exec .parseHeader s = .next (State.completedWith
      { s with kind := .written k, plen := .written l, draws := s.draws + 2 } 0x42)) ∧
  (∀ s : State, s.bin = .unwritten → exec .parseHeader s = .fault (.unwrittenOperand .bin)) ∧
  decode 0x00000004 = .ok .parseHeader ∧
  parseHeader [0xDE, 0xAD, 0xC0, 0xDE, 0xFF, 0xFF, 0xFF, 0xFF, 0xFF, 0xFF, 0xFF, 0xFF] =
    some (.unencrypted, 0xFFFFFFFFFFFFFFFF) ∧
  parseHeader [0xDE, 0xAD, 0xC0, 0xDE, 0, 0, 0, 0, 0, 0, 0, 0x0A] = some (.unencrypted, 10)

/-! ## The capacity model -/

/-- `max_payload` and `check_capacity` (43_capacity.md R170, R172): the bound, its second form, and that a frame passes
exactly when its symbols fit the channels; then its padded stream fits too. -/
def Obligations.CapacityFunction : Prop :=
  ∀ w h : Nat,
    maxPayload w h = w * h * 6 / 8 ∧ maxPayload w h = 3 * w * h / 4 ∧
    ∀ frame : Bytes,
      (overCapacity frame w h = true ↔ maxPayload w h < frame.length) ∧
      (frame.length ≤ maxPayload w h ↔ 4 * frame.length ≤ 3 * w * h) ∧
      (frame.length ≤ maxPayload w h →
        (pack frame 3).length = 3 * ((4 * frame.length + 2) / 3) ∧ (4 * frame.length + 2) / 3 ≤ w * h)

/-- MAX_PAYLOAD (43_capacity.md R171): CAP, the operands, and the corner cases. Derived: where both operands are UNWRITTEN,
GW is named, the one read first (log entry 4). -/
def Obligations.MaxPayloadCommand : Prop :=
  (∀ (s : State) (w h : Nat), s.gw = .written w → s.gh = .written h →
    exec .maxPayload s = .next (State.completedWith { s with cap := .written (w * h * 6 / 8) } 0x02)) ∧
  (∀ s : State, s.gw = .unwritten → exec .maxPayload s = .fault (.unwrittenOperand .gw)) ∧
  (∀ (s : State) (w : Nat), s.gw = .written w → s.gh = .unwritten →
    exec .maxPayload s = .fault (.unwrittenOperand .gh)) ∧
  decode 0x00000005 = .ok .maxPayload ∧
  (∀ w h, 12 ≤ maxPayload w h ↔ 16 ≤ w * h) ∧
  (∀ n, maxPayload 0 n = 0 ∧ maxPayload n 0 = 0) ∧ maxPayload 1 1 = 0 ∧ maxPayload 2 1 = 1 ∧ maxPayload 3 3 = 6 ∧
  maxPayload 4 4 = 12 ∧ maxPayload 10 10 = 75 ∧ maxPayload (2 ^ 32 - 1) (2 ^ 32 - 1) = 3 * (2 ^ 32 - 1) ^ 2 / 4

/-- CHECK_CAPACITY (43_capacity.md R173): the strict comparison; no register but STATUS changes. Derived: where several
operands are UNWRITTEN, the one read first is named, of BIN, GW and GH (log entry 4). -/
def Obligations.CheckCapacityCommand : Prop :=
  (∀ (s : State) (frame : Bytes) (w h : Nat), s.bin = .written frame → s.gw = .written w → s.gh = .written h →
    (frame.length ≤ w * h * 6 / 8 → exec .checkCapacity s = .next (s.completedWith 0x02)) ∧
    (w * h * 6 / 8 < frame.length → exec .checkCapacity s = .next (s.completedWith 0x12))) ∧
  (∀ s : State, s.bin = .unwritten → exec .checkCapacity s = .fault (.unwrittenOperand .bin)) ∧
  (∀ (s : State) (b : Bytes), s.bin = .written b → s.gw = .unwritten →
    exec .checkCapacity s = .fault (.unwrittenOperand .gw)) ∧
  (∀ (s : State) (b : Bytes) (w : Nat), s.bin = .written b → s.gw = .written w → s.gh = .unwritten →
    exec .checkCapacity s = .fault (.unwrittenOperand .gh)) ∧
  decode 0x00000006 = .ok .checkCapacity ∧
  (∀ (s : State) (w h : Nat), s.bin = .written [] → s.gw = .written w → s.gh = .written h →
    exec .checkCapacity s = .next (s.completedWith 0x02))

/-! ## The embedder -/

/-- EMBED's capacity gate (44_embedder.md R191): checked before any pixel; a frame that is too long completes with
CapacityExceeded and every pixel keeps its value; a frame that fits is packed and starts the writing, with GEOM, STREAM, K
and PHASE as R192 and R197 set them. Derived: `memBefore` is the model's own field (log entry 10). -/
def Obligations.EmbedGate : Prop :=
  ∀ (s : State) (frame : Bytes), s.hid.phase = .embGate → s.bin = .written frame → s.grid.fails = false →
    (s.grid.w * s.grid.h * 6 / 8 < frame.length →
      exec .embed s = .next (State.completedWith
        { s with hid := { s.hid with geom := (s.grid.w, s.grid.h) } } 0x12)) ∧
    (frame.length ≤ s.grid.w * s.grid.h * 6 / 8 →
      exec .embed s = .next
        { s with hid :=
          { s.hid with
            geom := (s.grid.w, s.grid.h)
            stream := pack frame 3
            k := 0
            phase := .embWrite
            memBefore := s.grid.mem } })

/-- EMBED's writing step (44_embedder.md R193, R194, R197): the pixel under the cursor gets the next three symbols in the
low bits of R, G and B, as a whole; the cursor moves on; every byte outside the pixel keeps its value; when the stream is
used up the command completes. -/
def Obligations.EmbedWriteStep : Prop :=
  ∀ s : State, s.hid.phase = .embWrite → s.grid.fails = false → s.hid.geom = (s.grid.w, s.grid.h) →
    (s.hid.k = s.hid.stream.length → exec .embed s = .next (s.completedWith 0x02)) ∧
    (s.hid.k ≠ s.hid.stream.length → s.hid.k / 3 < s.grid.w * s.grid.h → Grid.wf s.grid →
      ∃ t, exec .embed s = .next t ∧
        t = { s with hid := { s.hid with k := s.hid.k + 3 }, grid := { s.grid with mem := t.grid.mem } } ∧
        Memory.readPixel t.grid.mem (s.hid.k / 3) =
          { r := (Memory.read s.grid.mem (3 * (s.hid.k / 3)) &&& 0xFC) ||| (s.hid.stream.getD s.hid.k 0).setWidth 8
            g := (Memory.read s.grid.mem (3 * (s.hid.k / 3) + 1) &&& 0xFC) |||
              (s.hid.stream.getD (s.hid.k + 1) 0).setWidth 8
            b := (Memory.read s.grid.mem (3 * (s.hid.k / 3) + 2) &&& 0xFC) |||
              (s.hid.stream.getD (s.hid.k + 2) 0).setWidth 8 } ∧
        ∀ a, a < 3 * (s.hid.k / 3) ∨ 3 * (s.hid.k / 3) + 3 ≤ a →
          Memory.read t.grid.mem a = Memory.read s.grid.mem a)

/-- EMBED's frame in any state: a step that answers next changes no byte but those of the pixel its writing step stores
to, and no register but STATUS. -/
def Obligations.EmbedFrame : Prop :=
  ∀ s t : State, exec .embed s = .next t →
    t = { s with status := t.status, hid := t.hid, grid := { s.grid with mem := t.grid.mem } } ∧
    (s.hid.phase ≠ .embWrite ∨ s.hid.k = s.hid.stream.length → t.grid.mem = s.grid.mem) ∧
    (∀ a, a < embedAddress s ∨ embedAddress s + 3 ≤ a → Memory.read t.grid.mem a = Memory.read s.grid.mem a)

/-- EMBED's step form and the whole command agree (44_embedder.md R190, R197): from the CMD write, with no other agent
acting, it completes after exactly `1 + len(STREAM)/3 + 1` steps when the gate passes and after 1 step when it fails, in
the state of R190. -/
def Obligations.EmbedStepFormAgreesWithWhole : Prop :=
  ∀ (s : State) (frame : Bytes), s.busy = false → s.host.script = [.setCmd 0x00000007] → s.grid.fails = false →
    s.bin = .written frame →
    (s.grid.w * s.grid.h * 6 / 8 < frame.length →
      visibleResult (Host.Core.run core 1 s) = .next (State.completedWith (s.withScript []) 0x12).visible) ∧
    (frame.length ≤ s.grid.w * s.grid.h * 6 / 8 →
      (∀ n, 1 ≤ n → n < 1 + (pack frame 3).length / 3 + 1 →
        ∃ t : State, Host.Core.run core n s = .next t ∧ t.busy = true) ∧
      visibleResult (Host.Core.run core (1 + (pack frame 3).length / 3 + 1) s) =
        .next (State.completedWith
          { s.withScript [] with grid :=
            { s.grid with mem := embedPixels (pack frame 3) s.grid.mem ((pack frame 3).length / 3) } } 0x02).visible ∧
      visibleResult (Host.Core.run core (1 + (pack frame 3).length / 3 + 1) s) =
        visibleResult (embedWhole ((s.withScript []).accept 0x00000007 .embGate)))

/-- Bit isolation (44_embedder.md R195, with R194): after EMBED the six high bits of every channel of every pixel are as
before, the two low bits of a written channel are its symbol, and pixels past the stream are untouched. -/
def Obligations.EmbedBitIsolation : Prop :=
  ∀ (s : State) (frame : Bytes), s.busy = false → s.host.script = [.setCmd 0x00000007] → s.grid.fails = false →
    Grid.wf s.grid → s.bin = .written frame → frame.length ≤ s.grid.w * s.grid.h * 6 / 8 →
    ∃ t : State, Host.Core.run core (1 + (pack frame 3).length / 3 + 1) s = .next t ∧ t.status = 0x02 ∧
      (∀ a, Memory.read t.grid.mem a &&& 0xFC = Memory.read s.grid.mem a &&& 0xFC) ∧
      (∀ a, (ha : a < (pack frame 3).length) →
        Memory.read t.grid.mem a &&& 0x03 = ((pack frame 3)[a]).setWidth 8) ∧
      (∀ a, (pack frame 3).length ≤ a → Memory.read t.grid.mem a = Memory.read s.grid.mem a)

/-! ## The extractor -/

/-- EXTRACT's first step and its scan (45_extractor.md R212, R213, R219, R225): a grid of fewer than 48 channels completes
with NotSteganographic; otherwise each step of a scan takes the symbol of channel K, reading a pixel at its first
channel; the header phase ends after 48 symbols, the payload phase after NEEDED. -/
def Obligations.ExtractScanSteps : Prop :=
  ∀ (key : Bool) (s : State), s.grid.fails = false →
    (s.hid.phase = .extSize → 3 * (s.grid.w * s.grid.h) < 48 →
      ∃ k l b, exec (extractWith key) s = .next (State.completedWith
        { s with
          kind := .written k, plen := .written l, bout := .written b, draws := s.draws + 3
          hid := { s.hid with geom := (s.grid.w, s.grid.h) } } 0x22)) ∧
    (s.hid.phase = .extSize → 48 ≤ 3 * (s.grid.w * s.grid.h) →
      exec (extractWith key) s = .next
        { s with hid := { s.hid with geom := (s.grid.w, s.grid.h), k := 0, acc := [], phase := .extHdr } }) ∧
    (s.hid.phase = .extPay → s.hid.k = s.hid.needed →
      exec (extractWith key) s = .next { s with hid := { s.hid with phase := .extDec } }) ∧
    (s.hid.geom = (s.grid.w, s.grid.h) → s.hid.k < 3 * (s.grid.w * s.grid.h) → ∀ p : Pixel,
      (s.hid.k % 3 = 0 → p = Memory.readPixel s.grid.mem (s.hid.k / 3)) → (s.hid.k % 3 ≠ 0 → p = s.hid.latch) →
        (s.hid.phase = .extHdr →
          exec (extractWith key) s = .next
            { s with hid :=
              { s.hid with
                latch := p
                acc := s.hid.acc ++ [((if s.hid.k % 3 = 0 then p.r else if s.hid.k % 3 = 1 then p.g else p.b).setWidth 2)]
                k := s.hid.k + 1
                phase := if s.hid.k + 1 = 48 then .extParse else .extHdr } }) ∧
        (s.hid.phase = .extPay → s.hid.k ≠ s.hid.needed →
          exec (extractWith key) s = .next
            { s with hid :=
              { s.hid with
                latch := p
                acc := s.hid.acc ++ [((if s.hid.k % 3 = 0 then p.r else if s.hid.k % 3 = 1 then p.g else p.b).setWidth 2)]
                k := s.hid.k + 1 } }))

/-- EXTRACT's header parse and size check (45_extractor.md R214, R215, R216, R218, R225): a bad marker is
NotSteganographic; a good one gives KIND, PLEN and NEEDED; an image too small for the payload is CapacityExceeded; else
the payload phase begins, at symbol 0 under RESCAN. -/
def Obligations.ExtractParseAndCheck : Prop :=
  ∀ (key : Bool) (s : State),
    (s.hid.phase = .extParse →
      (parseHeader (unpack s.hid.acc) = none →
        ∃ k l b, exec (extractWith key) s = .next (State.completedWith
          { s with kind := .written k, plen := .written l, bout := .written b, draws := s.draws + 3 } 0x22)) ∧
      (∀ kd len, parseHeader (unpack s.hid.acc) = some (kd, len) →
        exec (extractWith key) s = .next
          { s with
            kind := .written (if kd = .encrypted then 1 else 0)
            plen := .written len
            hid := { s.hid with hk := kd, hl := len, needed := 48 + len.toNat * 4, phase := .extCheck } })) ∧
    (s.hid.phase = .extCheck →
      (3 * (s.hid.geom.1 * s.hid.geom.2) < s.hid.needed →
        ∃ k l b, exec (extractWith key) s = .next (State.completedWith
          { s with kind := .written k, plen := .written l, bout := .written b, draws := s.draws + 3 } 0x12)) ∧
      (s.hid.needed ≤ 3 * (s.hid.geom.1 * s.hid.geom.2) →
        exec (extractWith key) s = .next
          { s with hid :=
            { s.hid with
              k := if s.cfg.rescan then 0 else s.hid.k
              acc := if s.cfg.rescan then [] else s.hid.acc
              phase := .extPay } }))

/-- EXTRACT's last step (45_extractor.md R220 to R223): an unencrypted payload is returned as it is, whatever F and PWD are;
an encrypted one without a password, or one the cipher rejects, is InvalidKeyOrData; otherwise BOUT is what the cipher
returns. The bound of BOUT is 10_state.md R35's. -/
def Obligations.ExtractDecodeStep : Prop :=
  ∀ s : State, s.hid.phase = .extDec → ∀ payload : Bytes,
    payload = unpack ((s.hid.acc.drop 48).take (s.hid.needed - 48)) →
    (∀ key, s.hid.hk = .unencrypted → Fits payload.length s.cfg.bufBytes →
      exec (extractWith key) s = .next (State.completedWith { s with bout := .written payload } 0x02)) ∧
    (∀ key, s.hid.hk = .unencrypted → ¬Fits payload.length s.cfg.bufBytes →
      exec (extractWith key) s = .refused .resultTooLong) ∧
    (s.hid.hk = .encrypted →
      ∃ k l b, exec .extract s = .next (State.completedWith
        { s with kind := .written k, plen := .written l, bout := .written b, draws := s.draws + 3 } 0x32)) ∧
    (∀ pwd, s.hid.hk = .encrypted → s.pwd = .written pwd →
      match Config.decrypt payload pwd with
      | none =>
        ∃ k l b, exec .extractKey s = .next (State.completedWith
          { s with kind := .written k, plen := .written l, bout := .written b, draws := s.draws + 3 } 0x32)
      | some r =>
        (Fits r.length s.cfg.bufBytes →
          exec .extractKey s = .next (State.completedWith { s with bout := .written r } 0x02)) ∧
        (¬Fits r.length s.cfg.bufBytes → exec .extractKey s = .refused .resultTooLong))

/-- EXTRACT's step form and the whole command agree (45_extractor.md R210, R225), for both keys and both values of RESCAN:
from the CMD write, with no other agent acting, the command has ended after some number of steps, at most NEEDED + 53
where the header is valid and 50 where it is not, with the outcome of R210. -/
def Obligations.ExtractStepFormAgreesWithWhole : Prop :=
  ∀ (s : State) (key : Bool), s.busy = false → s.host.script = [.setCmd (if key then 0x00000018 else 0x00000008)] →
    s.grid.fails = false →
    ∃ n, 1 ≤ n ∧
      (match headerOf s.grid with
        | none => n ≤ 50
        | some (_, len) => n ≤ 48 + len.toNat * 4 + 53) ∧
      (∀ m, 1 ≤ m → m < n → ∃ t : State, Host.Core.run core m s = .next t ∧ t.busy = true) ∧
      Settled (Host.Core.run core n s) ∧
      visibleResult (Host.Core.run core n s) =
        visibleResult (extractWhole key
          ((s.withScript []).accept (if key then 0x00000018 else 0x00000008) .extSize))

/-- RESCAN is not observable (45_extractor.md R226): from states that differ in it alone, EXTRACT ends with the same
registers, STATUS and grid. -/
def Obligations.RescanEquivalence : Prop :=
  ∀ (s : State) (key : Bool), s.busy = false → s.host.script = [.setCmd (if key then 0x00000018 else 0x00000008)] →
    s.grid.fails = false →
    ∃ m n, 1 ≤ m ∧ 1 ≤ n ∧
      Settled (Host.Core.run core m { s with cfg := { s.cfg with rescan := true } }) ∧
      Settled (Host.Core.run core n { s with cfg := { s.cfg with rescan := false } }) ∧
      (∀ t : State, Host.Core.run core m { s with cfg := { s.cfg with rescan := true } } = .next t →
        ∃ u : State, Host.Core.run core n { s with cfg := { s.cfg with rescan := false } } = .next u ∧
          u.visible = { t.visible with cfg := { s.cfg with rescan := false } }) ∧
      (∀ f : Fault, Host.Core.run core m { s with cfg := { s.cfg with rescan := true } } = .fault f →
        Host.Core.run core n { s with cfg := { s.cfg with rescan := false } } = .fault f) ∧
      (∀ r : Refusal, Host.Core.run core m { s with cfg := { s.cfg with rescan := true } } = .refused r →
        Host.Core.run core n { s with cfg := { s.cfg with rescan := false } } = .refused r)

/-- Of all the commands only EMBED writes the grid; EXTRACT never does (20_memory.md R80). -/
def Obligations.OnlyEmbedWritesTheGrid : Prop :=
  ∀ (i : Instr) (s t : State), exec i s = .next t → i ≠ .embed → t.grid = s.grid

/-! ## The round trip -/

/-- Hide and reveal (45_extractor.md R231, 30_encoding.md R103), unencrypted: after `SET BIN = b`, HIDE U and REVEAL, BOUT
holds `b`, KIND 0 and PLEN its length, whenever the frame fits the image (and the length its field, R154, and the
registers' bound). -/
def Obligations.HideRevealRoundTrip : Prop :=
  ∀ (s : State) (b : Bytes), s.busy = false → s.grid.fails = false → Grid.wf s.grid →
    12 + b.length ≤ maxPayload s.grid.w s.grid.h → b.length < 2 ^ 64 → Fits (12 + b.length) s.cfg.bufBytes →
    s.host.script = .setBin b :: (hideU ++ reveal) →
    ∃ (n : Nat) (t : State), Host.Core.run core n s = .next t ∧ t.host.script = [] ∧ t.status = 0x02 ∧
      t.bout = .written b ∧ t.kind = .written 0 ∧ t.plen = .written (BitVec.ofNat 64 b.length)

/-- Hide and reveal of a ciphertext (45_extractor.md R231, 30_encoding.md R103): after `SET BIN = c`, BUILD_FRAME E, EMBED
and REVEAL KEY the run ends as `RevealsCiphertext` says: BOUT holds what the cipher's `decrypt(c, pwd)` returns. The same
after `SET BIN = b`, HIDE E and REVEAL KEY for the ciphertext `c = encrypt(b, pwd)`, unless `c` is too long for its length
field (42_frame_codec.md R154) and the program stops at BUILD_FRAME. No property of the cipher is assumed: where
`CipherRoundTrip` of 60_exceptions.md R245 holds, `decrypt(c, pwd)` is `b`. -/
def Obligations.EncryptedHideRevealRoundTrip : Prop :=
  ∀ (s : State) (c pwd : Bytes), s.busy = false → s.grid.fails = false → Grid.wf s.grid →
    12 + c.length ≤ maxPayload s.grid.w s.grid.h → Fits (12 + c.length) s.cfg.bufBytes →
    (c.length < 2 ^ 64 →
      s.host.script =
        .setBin c :: (commandLine .buildFrameE ++ [.stopIfErr, .copyBinBout] ++ commandLine .embed ++ revealKey pwd) →
      ∃ n, RevealsCiphertext s c pwd (Host.Core.run core n s)) ∧
    (∀ b, c = Config.encrypt b pwd → Fits b.length s.cfg.bufBytes →
      s.host.script = .setBin b :: (hideE pwd ++ revealKey pwd) →
      ∃ n, if c.length < 2 ^ 64 then RevealsCiphertext s c pwd (Host.Core.run core n s)
        else ∃ t : State, Host.Core.run core n s = .next t ∧ t.host.script = [] ∧ t.status = 0x42)

/-! ## Whole-machine rules -/

/-- The invariant of the machine holds at reset. -/
def Obligations.ResetMeetsInvariant : Prop := Inv State.reset

/-- Every step keeps the invariant: STATUS is one of its words, PHASE is IDLE exactly when no command runs, the grid is
canonical, and the hidden state of a running command is what its step form has built so far. -/
def Obligations.StepKeepsInvariant : Prop :=
  ∀ s t : State, Inv s → step s = .next t → Inv t

/-- The core never issues an access outside the grid (20_memory.md R65): in a state that meets the invariant and with an
answering collaborator, its turn and a CMD write fault only on an UNWRITTEN operand. -/
def Obligations.CoreStaysInsideTheGrid : Prop :=
  ∀ (s : State) (f : Fault), Inv s → s.grid.fails = false →
    (s.host.script = [] ∨ ∃ w rest, s.host.script = .setCmd w :: rest) → step s = .fault f →
    ∃ r, f = .unwrittenOperand r

/-- No partial writes (60_exceptions.md R243): a command that completes with an error leaves every pixel as it was before
the command. -/
def Obligations.ErrorsLeaveTheGrid : Prop :=
  ∀ (s t : State) (w : Word) (n : Nat), s.busy = false → s.host.script = [.setCmd w] → 1 ≤ n →
    Host.Core.run core n s = .next t → t.busy = false → t.err ≠ 0 → t.grid = s.grid

/-- Every command ends (70_reset_and_hazards.md R287): with an answering collaborator and no other agent acting, within one
step, EMBED within `2 + ceil(4*len(BIN)/3)`, EXTRACT within `NEEDED + 53`. -/
def Obligations.EveryCommandEnds : Prop :=
  ∀ (s : State) (w : Word), s.busy = false → s.host.script = [.setCmd w] → s.grid.fails = false →
    (decode w ≠ .ok .embed → decode w ≠ .ok .extract → decode w ≠ .ok .extractKey →
      Settled (Host.Core.run core 1 s)) ∧
    (∀ frame, decode w = .ok .embed → s.bin = .written frame →
      ∃ n, 1 ≤ n ∧ n ≤ 2 + (4 * frame.length + 2) / 3 ∧ Settled (Host.Core.run core n s)) ∧
    (decode w = .ok .extract ∨ decode w = .ok .extractKey →
      ∃ n, 1 ≤ n ∧
        n ≤ (match headerOf s.grid with
              | none => 48
              | some (_, len) => 48 + len.toNat * 4) + 53 ∧
        Settled (Host.Core.run core n s))

/-- No command reads hidden state left by an earlier one (10_state.md R33): from an idle state, whatever its hidden state
is, every run shows the same. -/
def Obligations.LeftoverHiddenStateIsNeverRead : Prop :=
  ∀ (s : State) (h : Hidden) (n : Nat), s.busy = false →
    visibleResult (Host.Core.run core n { s with hid := h }) = visibleResult (Host.Core.run core n s)

/-- No step changes the parameters (00_scope.md R7). -/
def Obligations.ParametersNeverChange : Prop :=
  ∀ s t : State, step s = .next t → t.cfg = s.cfg

/-! ## Reset -/

/-- The values after reset (10_state.md R39): CMD reads 0, STATUS is 0, every operand and result register is UNWRITTEN, PHASE
is IDLE. -/
def Obligations.ResetValues : Prop :=
  State.reset.status = 0x00000000 ∧ storedValue State.reset .cmd = some (.word 0x00000000) ∧
  State.reset.gw = .unwritten ∧ State.reset.gh = .unwritten ∧ State.reset.cap = .unwritten ∧
  State.reset.kind = .unwritten ∧ State.reset.plen = .unwritten ∧ State.reset.pwd = .unwritten ∧
  State.reset.bin = .unwritten ∧ State.reset.sin = .unwritten ∧ State.reset.bout = .unwritten ∧
  State.reset.sout = .unwritten ∧ State.reset.hid.phase = .idle

/-- The reset event (70_reset_and_hazards.md R271, R272): at any time every register is at its reset value and PHASE is IDLE;
the grid's geometry is unchanged, and its bytes too unless EMBED was past its gate; then, for some j up to the stream's
pixels, the pixels before j hold the new values and the pixels from j on the old ones. The old values are the
model's own `memBefore`, the bytes at the gate (log entry 10; EmbedGate). -/
def Obligations.ResetEvent : Prop :=
  ∀ (s : State) (rest : List Action), s.host.script = .reset :: rest →
    ∃ t : State, step s = .next t ∧
      t.status = 0 ∧ t.gw = .unwritten ∧ t.gh = .unwritten ∧ t.cap = .unwritten ∧ t.kind = .unwritten ∧
      t.plen = .unwritten ∧ t.pwd = .unwritten ∧ t.bin = .unwritten ∧ t.sin = .unwritten ∧ t.bout = .unwritten ∧
      t.sout = .unwritten ∧ t.hid.phase = .idle ∧ t.host = { s.host with script := rest } ∧ t.cfg = s.cfg ∧
      t.grid.w = s.grid.w ∧ t.grid.h = s.grid.h ∧
      (¬(s.busy = true ∧ s.hid.phase = .embWrite) → t.grid = s.grid) ∧
      (s.busy = true → s.hid.phase = .embWrite → Memory.wf s.hid.memBefore →
        ∃ j, j ≤ s.hid.stream.length / 3 ∧
          ∀ i, Memory.readPixel t.grid.mem i =
            if i < j then embedPixel s.hid.stream (3 * i) (Memory.readPixel s.hid.memBefore i)
            else Memory.readPixel s.hid.memBefore i)

/-! ## The grid and its other users -/

/-- The exclusive-access contract (20_memory.md R75): while EMBED runs any access by another agent is a race; while EXTRACT
runs a write is, and a read changes nothing but what its reader knows. -/
def Obligations.ExclusiveAccess : Prop :=
  ∀ (s : State) (rest : List Action),
    (s.busy = true → s.hid.phase = .embGate ∨ s.hid.phase = .embWrite → ∀ x y p,
      (s.host.script = .gridGet x y :: rest → step s = .fault .gridRace) ∧
      (s.host.script = .gridSet x y p :: rest → step s = .fault .gridRace)) ∧
    (s.busy = true → s.hid.phase = .extSize ∨ s.hid.phase.scanning = true → ∀ x y p,
      (s.host.script = .gridSet x y p :: rest → step s = .fault .gridRace) ∧
      (s.host.script = .gridGet x y :: rest → s.grid.fails = false → x < s.grid.w → y < s.grid.h →
        step s = .next
          { s with host :=
            { script := rest, lastRead := some (.pixel (Memory.readPixel s.grid.mem (y * s.grid.w + x))) } }))

/-- Reads and writes of a pixel through the collaborator (20_memory.md R64): a get after a set gives the pixel set, a set
leaves every other pixel alone, and a second identical set changes nothing. -/
def Obligations.PixelSetThenGet : Prop :=
  ∀ (g g' : Grid) (x y : Nat) (p : Pixel), Grid.wf g → g.set x y p = .ok g' →
    g'.get x y = .ok p ∧ g'.set x y p = .ok g' ∧ Grid.wf g' ∧
    ∀ x' y', (x', y') ≠ (x, y) → g'.get x' y' = g.get x' y'

/-- GRID (30_encoding.md R102, 00_scope.md R15): the host sets up a grid, and pixel (x, y) is then entry y*W + x of the list;
during EMBED or EXTRACT it is a change of geometry or a race (60_exceptions.md R244, 20_memory.md R75; the model's
reading, log entries 16 and 17). -/
def Obligations.GridSetup : Prop :=
  ∀ (s : State) (w h : Nat) (pixels : List Pixel) (rest : List Action),
    s.host.script = .gridSetup w h pixels :: rest → pixels.length = w * h →
    (s.embedding = false → s.extracting = false → s.grid.fails = false →
      ∃ t : State, step s = .next t ∧ t = { s with grid := t.grid, host := { s.host with script := rest } } ∧
        t.grid.w = w ∧ t.grid.h = h ∧ Grid.wf t.grid ∧
        ∀ x y, (hx : x < w) → (hy : y < h) → ∃ p, pixels[y * w + x]? = some p ∧ t.grid.get x y = .ok p) ∧
    (s.embedding = true ∨ s.extracting = true →
      (w = s.grid.w → h = s.grid.h → step s = .fault .gridRace) ∧
      (¬(w = s.grid.w ∧ h = s.grid.h) → step s = .fault .collaboratorFailure))

/-- A collaborator that fails a call (60_exceptions.md R244): the command that makes the call is a CollaboratorFailure, for
each step of EMBED and EXTRACT that calls it (what counts as a call is the model's, log entry 17). -/
def Obligations.CollaboratorFailureFaults : Prop :=
  ∀ s : State, s.grid.fails = true →
    (∀ frame, s.hid.phase = .embGate → s.bin = .written frame → exec .embed s = .fault .collaboratorFailure) ∧
    (s.hid.phase = .embWrite → s.hid.k ≠ s.hid.stream.length → exec .embed s = .fault .collaboratorFailure) ∧
    (∀ key, s.hid.phase = .extSize → exec (extractWith key) s = .fault .collaboratorFailure) ∧
    (∀ key, s.hid.phase = .extHdr → s.hid.k % 3 = 0 → exec (extractWith key) s = .fault .collaboratorFailure) ∧
    (∀ key, s.hid.phase = .extPay → s.hid.k ≠ s.hid.needed → s.hid.k % 3 = 0 →
      exec (extractWith key) s = .fault .collaboratorFailure)

/-! ## The host's actions -/

/-- The host's writes of operand registers (10_state.md R21, 70_reset_and_hazards.md R283): while no command runs each
writes its register and nothing else; while BUSY each is ignored. -/
def Obligations.OperandWrites : Prop :=
  ∀ (s : State) (rest : List Action) (n : Nat) (b : Bytes) (y : Syms) (a : Action),
    s.host.script = a :: rest → (a = .setGw n ∨ a = .setGh n ∨ a = .setPwd b ∨ a = .setBin b ∨ a = .setSin y) →
    (s.busy = true → step s = .next (s.withScript rest)) ∧
    (s.busy = false →
      (a = .setGw n → (∀ d, s.cfg.dimBits = some d → n < 2 ^ d) →
        step s = .next { s.withScript rest with gw := .written n }) ∧
      (a = .setGh n → (∀ d, s.cfg.dimBits = some d → n < 2 ^ d) →
        step s = .next { s.withScript rest with gh := .written n }) ∧
      (a = .setPwd b → step s = .next { s.withScript rest with pwd := .written b }) ∧
      (a = .setBin b → Fits b.length s.cfg.bufBytes →
        step s = .next { s.withScript rest with bin := .written b }) ∧
      (a = .setSin y → Fits y.length s.cfg.bufSyms →
        step s = .next { s.withScript rest with sin := .written y }))

/-- The host's reads (10_state.md R21, R22): CMD reads 0; STATUS and the operand registers read their value at any time, the
result registers while no command runs; a read changes nothing but what the host knows. -/
def Obligations.HostReads : Prop :=
  ∀ (s : State) (rest : List Action) (r : ReadReg) (v : HostValue), s.host.script = .get r :: rest →
    ((r = .cmd ∧ v = .word 0) ∨ (r = .status ∧ v = .word s.status) ∨
      (∃ n, r = .gw ∧ s.gw = .written n ∧ v = .nat n) ∨ (∃ n, r = .gh ∧ s.gh = .written n ∧ v = .nat n) ∨
      (∃ b, r = .bin ∧ s.bin = .written b ∧ v = .bytes b) ∨ (∃ y, r = .sin ∧ s.sin = .written y ∧ v = .syms y) ∨
      (s.busy = false ∧
        ((∃ n, r = .cap ∧ s.cap = .written n ∧ v = .nat n) ∨ (∃ k, r = .kind ∧ s.kind = .written k ∧ v = .bit k) ∨
          (∃ n, r = .plen ∧ s.plen = .written n ∧ v = .length n) ∨
          (∃ b, r = .bout ∧ s.bout = .written b ∧ v = .bytes b) ∨
          (∃ y, r = .sout ∧ s.sout = .written y ∧ v = .syms y)))) →
    step s = .next { s with host := { script := rest, lastRead := some v } }

/-- A result register read while BUSY gives an unspecified value of the register's domain and changes no register
(70_reset_and_hazards.md R283; a free value, log entry 9). -/
def Obligations.ResultReadWhileBusy : Prop :=
  ∀ (s : State) (rest : List Action) (r : ReadReg), s.busy = true → s.host.script = .get r :: rest →
    (r = .cap ∨ r = .kind ∨ r = .plen ∨ r = .bout ∨ r = .sout) →
    ∃ v, step s = .next { s with draws := s.draws + 1, host := { script := rest, lastRead := some v } } ∧
      (r = .cap → ∃ n, v = .nat n) ∧ (r = .kind → ∃ k, v = .bit k) ∧ (r = .plen → ∃ n, v = .length n) ∧
      (r = .bout → ∃ b, v = .bytes b ∧ Fits b.length s.cfg.bufBytes) ∧
      (r = .sout → ∃ y, v = .syms y ∧ Fits y.length s.cfg.bufSyms)

/-- A host read of a register still UNWRITTEN gives some value of the register's domain (10_state.md R21), and no register
changes; COPY and ENCRYPT go on with such a value. Derived: the spec makes only a command's read a fault (60_exceptions.md
R257), and the free value is the model's (log entry 5). -/
def Obligations.UnwrittenRegisterRead : Prop :=
  ∀ (s : State) (rest : List Action),
    (∀ r, s.host.script = .get r :: rest →
      ((r = .gw ∧ s.gw = .unwritten) ∨ (r = .gh ∧ s.gh = .unwritten) ∨ (r = .cap ∧ s.cap = .unwritten) ∨
        (r = .kind ∧ s.kind = .unwritten) ∨ (r = .plen ∧ s.plen = .unwritten) ∨ (r = .bin ∧ s.bin = .unwritten) ∨
        (r = .sin ∧ s.sin = .unwritten) ∨ (r = .bout ∧ s.bout = .unwritten) ∨ (r = .sout ∧ s.sout = .unwritten)) →
      ∃ v, step s = .next { s with draws := s.draws + 1, host := { script := rest, lastRead := some v } } ∧
        (r = .gw ∨ r = .gh → ∃ n, v = .nat n ∧ ∀ d, s.cfg.dimBits = some d → n < 2 ^ d) ∧
        (r = .cap → ∃ n, v = .nat n) ∧ (r = .kind → ∃ k, v = .bit k) ∧ (r = .plen → ∃ n, v = .length n) ∧
        (r = .bin ∨ r = .bout → ∃ b, v = .bytes b ∧ Fits b.length s.cfg.bufBytes) ∧
        (r = .sin ∨ r = .sout → ∃ y, v = .syms y ∧ Fits y.length s.cfg.bufSyms)) ∧
    (s.host.script = .copyBinBout :: rest → s.busy = false → s.bout = .unwritten →
      ∃ b : Bytes, Fits b.length s.cfg.bufBytes ∧
        step s = .next
          { s with
            bin := .written b
            draws := s.draws + 1
            host := { script := rest, lastRead := some (.bytes b) } }) ∧
    (∀ pwd, s.host.script = .encryptToBin .bin pwd :: rest → s.busy = false → s.bin = .unwritten →
      ∃ b : Bytes, Fits b.length s.cfg.bufBytes ∧
        (Fits (Config.encrypt b pwd).length s.cfg.bufBytes →
          step s = .next
            { s with
              bin := .written (Config.encrypt b pwd)
              draws := s.draws + 1
              host := { s.host with script := rest } }))

/-- The host script's own actions (30_encoding.md R102): WAIT goes on once DONE = 1; STOPIF ERR ends the program exactly on an
error; COPY writes BOUT's value to BIN; ENCRYPT writes the cipher's result to BIN (log entries 2, 12). -/
def Obligations.ScriptActions : Prop :=
  ∀ (s : State) (rest : List Action),
    (s.host.script = .wait :: rest → s.done = true → step s = .next (s.withScript rest)) ∧
    (s.host.script = .stopIfErr :: rest → s.err ≠ 0 → step s = .next (s.withScript [])) ∧
    (s.host.script = .stopIfErr :: rest → s.err = 0 → step s = .next (s.withScript rest)) ∧
    (∀ b, s.host.script = .copyBinBout :: rest → s.busy = false → s.bout = .written b → Fits b.length s.cfg.bufBytes →
      step s = .next
        { s with bin := .written b, host := { script := rest, lastRead := some (.bytes b) } }) ∧
    (∀ b pwd, s.host.script = .encryptToBin .bin pwd :: rest → s.busy = false → s.bin = .written b →
      Fits (Config.encrypt b pwd).length s.cfg.bufBytes →
      step s = .next { s.withScript rest with bin := .written (Config.encrypt b pwd) })
end

