-- ==== Sys2Proof/Laws/Memory.lean ====
section
/-! SUPPORT. The laws of the grid's bytes: a read after a write, the canonical form and the address bound kept by every
operation, pixels, and canonical memories that read alike being equal. -/

namespace Sys2Proof.Machine

theorem Memory.wf_nil : Memory.wf [] := by simp [Memory.wf]

theorem Memory.wf_tail {c : Host.Cell} {m : Memory} (h : Memory.wf (c :: m)) : Memory.wf m :=
  ⟨(List.pairwise_cons.mp h.1).2, fun d hd => h.2 d (List.mem_cons_of_mem _ hd)⟩

theorem Memory.head_lt {c : Host.Cell} {m : Memory} (h : Memory.wf (c :: m)) : ∀ d ∈ m, c.1 < d.1 :=
  (List.pairwise_cons.mp h.1).1

/-- An address below every listed one reads as unlisted. -/
theorem Memory.read_below {m : Memory} {a : Nat} (h : ∀ c ∈ m, a < c.1) : Memory.read m a = unlistedByte := by
  induction m with
  | nil => rfl
  | cons c m ih =>
    obtain ⟨k, v⟩ := c
    have hk : a < k := h (k, v) (by simp)
    have : k ≠ a := by omega
    simp only [Memory.read, this, if_false]
    exact ih fun d hd => h d (List.mem_cons_of_mem _ hd)

/-- A write leaves every other address alone. -/
theorem Memory.read_write_other (m : Memory) {a x : Nat} (b : Byte) (hx : x ≠ a) :
    Memory.read (Memory.write m a b) x = Memory.read m x := by
  induction m with
  | nil =>
    by_cases hb : b = unlistedByte
    · simp [Memory.write, hb]
    · simp [Memory.write, hb, Memory.read, hx.symm]
  | cons c m ih =>
    obtain ⟨k, v⟩ := c
    simp only [Memory.write]
    split
    · split
      · rfl
      · simp [Memory.read, hx.symm]
    · split
      · next h =>
        subst h
        split <;> simp [Memory.read, hx.symm]
      · simp only [Memory.read, ih]

/-- A read after a write to the same address gives the byte written. -/
theorem Memory.read_write_self {m : Memory} (h : Memory.wf m) (a : Nat) (b : Byte) :
    Memory.read (Memory.write m a b) a = b := by
  induction m with
  | nil =>
    by_cases hb : b = unlistedByte
    · simp [Memory.write, hb, Memory.read]
    · simp [Memory.write, hb, Memory.read]
  | cons c m ih =>
    obtain ⟨k, v⟩ := c
    have hlt := Memory.head_lt h
    simp only [Memory.write]
    split
    · next hak =>
      split
      · next hb =>
        subst hb
        have hne : k ≠ a := by omega
        simp only [Memory.read, hne, if_false]
        exact Memory.read_below fun d hd => Nat.lt_trans hak (hlt d hd)
      · simp [Memory.read]
    · split
      · next hak =>
        subst hak
        split
        · next hb => subst hb; exact Memory.read_below hlt
        · simp [Memory.read]
      · next hne =>
        have : k ≠ a := fun e => hne e.symm
        simp only [Memory.read, this, if_false]
        exact ih (Memory.wf_tail h)

/-- What a written memory lists: the byte written, and what was listed before. -/
theorem Memory.mem_write {m : Memory} {a : Nat} {b : Byte} {c : Host.Cell} (h : c ∈ Memory.write m a b) :
    c ∈ m ∨ (c = (a, b) ∧ b ≠ unlistedByte) := by
  induction m with
  | nil =>
    by_cases hb : b = unlistedByte
    · simp [Memory.write, hb] at h
    · simp only [Memory.write, hb, if_false, List.mem_singleton] at h
      exact .inr ⟨h, hb⟩
  | cons d m ih =>
    obtain ⟨k, v⟩ := d
    simp only [Memory.write] at h
    split at h
    · split at h
      · exact .inl h
      · next hb =>
        rcases List.mem_cons.mp h with h | h
        · exact .inr ⟨h, hb⟩
        · exact .inl h
    · split at h
      · split at h
        · exact .inl (List.mem_cons_of_mem _ h)
        · next hb =>
          rcases List.mem_cons.mp h with h | h
          · exact .inr ⟨h, hb⟩
          · exact .inl (List.mem_cons_of_mem _ h)
      · rcases List.mem_cons.mp h with h | h
        · exact .inl (by simp [h])
        · rcases ih h with h | h
          · exact .inl (List.mem_cons_of_mem _ h)
          · exact .inr h

/-- A write keeps the canonical form. -/
theorem Memory.wf_write {m : Memory} (h : Memory.wf m) (a : Nat) (b : Byte) : Memory.wf (Memory.write m a b) := by
  refine ⟨?_, fun c hc => ?_⟩
  · induction m with
    | nil => by_cases hb : b = unlistedByte <;> simp [Memory.write, hb]
    | cons d m ih =>
      obtain ⟨k, v⟩ := d
      have hlt := Memory.head_lt h
      have htail := Memory.wf_tail h
      simp only [Memory.write]
      split
      · next hak =>
        split
        · exact h.1
        · refine List.pairwise_cons.mpr ⟨fun c hc => ?_, h.1⟩
          rcases List.mem_cons.mp hc with rfl | hc
          · exact hak
          · exact Nat.lt_trans hak (hlt c hc)
      · split
        · next hak =>
          subst hak
          split
          · exact htail.1
          · exact List.pairwise_cons.mpr ⟨hlt, htail.1⟩
        · refine List.pairwise_cons.mpr ⟨fun c hc => ?_, ih htail⟩
          rcases Memory.mem_write hc with hc | ⟨rfl, _⟩
          · exact hlt c hc
          · show k < a
            omega
  · rcases Memory.mem_write hc with hc | ⟨rfl, hb⟩
    · exact h.2 c hc
    · exact hb

/-- Pixel `i` after it has been written. -/
theorem Memory.readPixel_writePixel_self {m : Memory} (h : Memory.wf m) (i : Nat) (p : Pixel) :
    Memory.readPixel (Memory.writePixel m i p) i = p := by
  have h1 := Memory.wf_write h (3 * i) p.r
  have h2 := Memory.wf_write h1 (3 * i + 1) p.g
  simp only [Memory.readPixel, Memory.writePixel]
  rw [Memory.read_write_other _ _ (by omega), Memory.read_write_other _ _ (by omega),
    Memory.read_write_self h, Memory.read_write_other _ _ (by omega), Memory.read_write_self h1,
    Memory.read_write_self h2]

/-- A pixel's write leaves every byte outside the pixel alone. -/
theorem Memory.read_writePixel_other (m : Memory) {i x : Nat} (p : Pixel) (hx : x < 3 * i ∨ 3 * i + 3 ≤ x) :
    Memory.read (Memory.writePixel m i p) x = Memory.read m x := by
  simp only [Memory.writePixel]
  rw [Memory.read_write_other _ _ (by omega), Memory.read_write_other _ _ (by omega),
    Memory.read_write_other _ _ (by omega)]

/-- A pixel's write leaves every other pixel alone. -/
theorem Memory.readPixel_writePixel_other (m : Memory) {i j : Nat} (p : Pixel) (hj : j ≠ i) :
    Memory.readPixel (Memory.writePixel m i p) j = Memory.readPixel m j := by
  simp only [Memory.readPixel]
  rw [Memory.read_writePixel_other _ _ (by omega), Memory.read_writePixel_other _ _ (by omega),
    Memory.read_writePixel_other _ _ (by omega)]

/-- A pixel's write keeps the canonical form. -/
theorem Memory.wf_writePixel {m : Memory} (h : Memory.wf m) (i : Nat) (p : Pixel) :
    Memory.wf (Memory.writePixel m i p) :=
  Memory.wf_write (Memory.wf_write (Memory.wf_write h _ _) _ _) _ _

/-- A write of an existing pixel keeps the grid well formed. -/
theorem Grid.wf_writePixel {g : Grid} (h : Grid.wf g) {i : Nat} (p : Pixel) (hi : i < g.w * g.h) :
    Grid.wf { g with mem := Memory.writePixel g.mem i p } := by
  refine ⟨Memory.wf_writePixel h.1 i p, fun c hc => ?_⟩
  show c.1 < 3 * (g.w * g.h)
  simp only [Memory.writePixel] at hc
  rcases Memory.mem_write hc with hc | ⟨rfl, _⟩
  · rcases Memory.mem_write hc with hc | ⟨rfl, _⟩
    · rcases Memory.mem_write hc with hc | ⟨rfl, _⟩
      · exact h.2 c hc
      · show 3 * i < _; omega
    · show 3 * i + 1 < _; omega
  · show 3 * i + 2 < _; omega

/-- What one byte lists as a cell. -/
theorem mem_cellOf {a : Nat} {b : Byte} {c : Host.Cell} (h : c ∈ cellOf a b) : c = (a, b) ∧ b ≠ unlistedByte := by
  by_cases hb : b = unlistedByte
  · simp [cellOf, hb] at h
  · simp only [cellOf, hb, if_false, List.mem_singleton] at h
    exact ⟨h, hb⟩

/-- The cells of a pixel list: existing addresses, no unlisted value. -/
theorem Memory.mem_ofPixels {i : Nat} {ps : List Pixel} {c : Host.Cell} (h : c ∈ Memory.ofPixels i ps) :
    3 * i ≤ c.1 ∧ c.1 < 3 * (i + ps.length) ∧ c.2 ≠ unlistedByte := by
  induction ps generalizing i with
  | nil => simp [Memory.ofPixels] at h
  | cons p ps ih =>
    simp only [Memory.ofPixels, List.mem_append, List.length_cons] at h ⊢
    rcases h with ((h | h) | h) | h
    · obtain ⟨rfl, hb⟩ := mem_cellOf h; exact ⟨by dsimp only; omega, by dsimp only; omega, hb⟩
    · obtain ⟨rfl, hb⟩ := mem_cellOf h; exact ⟨by dsimp only; omega, by dsimp only; omega, hb⟩
    · obtain ⟨rfl, hb⟩ := mem_cellOf h; exact ⟨by dsimp only; omega, by dsimp only; omega, hb⟩
    · have := ih h; exact ⟨by omega, by omega, this.2.2⟩

theorem cellOf_pairwise (a : Nat) (b : Byte) : (cellOf a b).Pairwise (fun c d => c.1 < d.1) := by
  by_cases hb : b = unlistedByte <;> simp [cellOf, hb]

/-- The cells of a pixel list are canonical. -/
theorem Memory.wf_ofPixels (i : Nat) (ps : List Pixel) : Memory.wf (Memory.ofPixels i ps) := by
  refine ⟨?_, fun c hc => (Memory.mem_ofPixels hc).2.2⟩
  induction ps generalizing i with
  | nil => simp [Memory.ofPixels]
  | cons p ps ih =>
    simp only [Memory.ofPixels, List.pairwise_append]
    refine ⟨⟨⟨cellOf_pairwise _ _, cellOf_pairwise _ _, ?_⟩, cellOf_pairwise _ _, ?_⟩, ih _, ?_⟩
    · intro c hc d hd
      obtain ⟨rfl, _⟩ := mem_cellOf hc; obtain ⟨rfl, _⟩ := mem_cellOf hd
      simp
    · intro c hc d hd
      obtain ⟨rfl, _⟩ := mem_cellOf hd
      rcases List.mem_append.mp hc with hc | hc <;> obtain ⟨rfl, _⟩ := mem_cellOf hc <;> simp
    · intro c hc d hd
      have hd := (Memory.mem_ofPixels hd).1
      rcases List.mem_append.mp hc with hc | hc
      · rcases List.mem_append.mp hc with hc | hc <;> obtain ⟨rfl, _⟩ := mem_cellOf hc <;> simp <;> omega
      · obtain ⟨rfl, _⟩ := mem_cellOf hc; simp; omega

/-- Canonical memories that read alike are equal: the canonical form lists each grid in one way. -/
theorem Memory.ext_read {m n : Memory} (hm : Memory.wf m) (hn : Memory.wf n)
    (h : ∀ a, Memory.read m a = Memory.read n a) : m = n := by
  induction m generalizing n with
  | nil =>
    cases n with
    | nil => rfl
    | cons d n =>
      have := h d.1
      simp only [Memory.read, if_true] at this
      exact absurd this.symm (hn.2 d (by simp))
  | cons c m ih =>
    cases n with
    | nil =>
      have := h c.1
      simp only [Memory.read, if_true] at this
      exact absurd this (hm.2 c (by simp))
    | cons d n =>
      obtain ⟨k, v⟩ := c
      obtain ⟨l, u⟩ := d
      have hkl : k = l := by
        rcases Nat.lt_trichotomy k l with hlt | heq | hgt
        · have hk := h k
          have hbelow : Memory.read ((l, u) :: n) k = unlistedByte :=
            Memory.read_below fun e he => by
              rcases List.mem_cons.mp he with rfl | he
              · exact hlt
              · exact Nat.lt_trans hlt (Memory.head_lt hn e he)
          rw [hbelow] at hk
          simp only [Memory.read, if_true] at hk
          exact absurd hk (hm.2 (k, v) (by simp))
        · exact heq
        · have hl := h l
          have hbelow : Memory.read ((k, v) :: m) l = unlistedByte :=
            Memory.read_below fun e he => by
              rcases List.mem_cons.mp he with rfl | he
              · exact hgt
              · exact Nat.lt_trans hgt (Memory.head_lt hm e he)
          rw [hbelow] at hl
          simp only [Memory.read, if_true] at hl
          exact absurd hl.symm (hn.2 (l, u) (by simp))
      subst hkl
      have hv : v = u := by simpa [Memory.read] using h k
      subst hv
      have htails : ∀ a, Memory.read m a = Memory.read n a := by
        intro a
        by_cases hka : k = a
        · subst hka
          rw [Memory.read_below (Memory.head_lt hm), Memory.read_below (Memory.head_lt hn)]
        · simpa [Memory.read, hka] using h a
      rw [ih (Memory.wf_tail hm) (Memory.wf_tail hn) htails]

/-- The grid of the reset state is canonical. -/
theorem Grid.wf_empty : Grid.wf Grid.empty := by decide

end Sys2Proof.Machine
end

