-- ==== Sys2Proof/Laws/Codec.lean ====
section
/-! SUPPORT. Lengths and unfoldings of the pure functions: the symbol codec, the capacity bound, EMBED's writing and
EXTRACT's scan. -/

namespace Sys2Proof.Machine

theorem flatMap_byteSyms_length (b : Bytes) : (b.flatMap byteSyms).length = 4 * b.length := by
  induction b with
  | nil => rfl
  | cons x b ih =>
    simp only [List.flatMap_cons, List.length_append, List.length_cons, ih, byteSyms, List.length_nil]
    omega

/-- The length of a packed sequence, padding written out. -/
theorem pack_length_eq (b : Bytes) (a : Nat) : (pack b a).length = 4 * b.length + padLength (4 * b.length) a := by
  unfold pack
  rw [List.length_append, List.length_replicate, flatMap_byteSyms_length]

/-- EMBED's stream is a whole number of pixels. -/
theorem pack_embedAlign_length (b : Bytes) : (pack b embedAlign).length = 3 * ((4 * b.length + 2) / 3) := by
  rw [pack_length_eq, padLength, embedAlign]
  omega

/-- The bound in symbols and channels. -/
theorem le_maxPayload {n w h : Nat} : n ≤ maxPayload w h ↔ 4 * n ≤ 3 * (w * h) := by
  unfold maxPayload
  omega

/-- A frame that passes the gate has a stream that fits the grid. -/
theorem stream_fits {b : Bytes} {w h : Nat} (hb : b.length ≤ maxPayload w h) :
    (pack b embedAlign).length / 3 ≤ w * h := by
  rw [le_maxPayload] at hb
  rw [pack_embedAlign_length]
  omega

/-- A bound that is given or not, as a proposition. -/
theorem withinBound_iff {n : Nat} {b : Option Nat} : withinBound n b = true ↔ ∀ m, b = some m → n ≤ m := by
  cases b <;> simp [withinBound]

/-- A sequence cut to a bound keeps within it. -/
theorem withinBound_cutToBound {α : Type} (y : List α) (b : Option Nat) :
    withinBound (cutToBound y b).length b = true := by
  cases b <;> simp [withinBound, cutToBound]

/-- `unpack` takes four symbols at a time. -/
theorem unpack_cons (s0 s1 s2 s3 : Sym) (y : Syms) :
    unpack (s0 :: s1 :: s2 :: s3 :: y) = symsByte s0 s1 s2 s3 :: unpack y := by
  rw [unpack]

/-- A byte's four symbols recombine to it (41_symbol_codec.md R136). -/
theorem symsByte_byteSyms (b : Byte) :
    symsByte (b.extractLsb' 6 2) (b.extractLsb' 4 2) (b.extractLsb' 2 2) (b.extractLsb' 0 2) = b := by
  apply BitVec.eq_of_getLsbD_eq
  intro i hi
  simp only [symsByte, BitVec.getLsbD_or, BitVec.getLsbD_shiftLeft, BitVec.getLsbD_setWidth, BitVec.getLsbD_extractLsb']
  match i, hi with
  | 0, _ => simp
  | 1, _ => simp
  | 2, _ => simp
  | 3, _ => simp
  | 4, _ => simp
  | 5, _ => simp
  | 6, _ => simp
  | 7, _ => simp

/-- EMBED's writing keeps a grid well formed as long as it stays inside. -/
theorem Grid.wf_embedPixels {g : Grid} (hg : Grid.wf g) (y : Syms) (n : Nat) (hn : n ≤ g.w * g.h) :
    Grid.wf { g with mem := embedPixels y g.mem n } := by
  induction n with
  | zero => exact hg
  | succ n ih =>
    exact Grid.wf_writePixel (g := { g with mem := embedPixels y g.mem n }) (ih (by omega)) _
      (by show n < g.w * g.h; omega)

theorem Memory.wf_embedPixels {m : Memory} (hm : Memory.wf m) (y : Syms) (n : Nat) :
    Memory.wf (embedPixels y m n) := by
  induction n with
  | zero => exact hm
  | succ n ih => exact Memory.wf_writePixel ih _ _

/-- A scan one symbol longer. -/
theorem scanSyms_succ (m : Memory) (n : Nat) : scanSyms m (n + 1) = scanSyms m n ++ [gridSym m n] := by
  simp [scanSyms, List.range_succ]

theorem scanSyms_length (m : Memory) (n : Nat) : (scanSyms m n).length = n := by simp [scanSyms]

end Sys2Proof.Machine
end

