-- ==== Sys2Proof/Laws/State.lean ====
section
/-! SUPPORT. What each named update of State does to each field: true by definition, for `simp`. -/

namespace Sys2Proof.Machine

/-! ### accept -/

@[simp] theorem State.accept_status (s : State) (w : Word) (p : Phase) : (s.accept w p).status = Status.running := rfl
@[simp] theorem State.accept_gw (s : State) (w : Word) (p : Phase) : (s.accept w p).gw = s.gw := rfl
@[simp] theorem State.accept_gh (s : State) (w : Word) (p : Phase) : (s.accept w p).gh = s.gh := rfl
@[simp] theorem State.accept_cap (s : State) (w : Word) (p : Phase) : (s.accept w p).cap = s.cap := rfl
@[simp] theorem State.accept_kind (s : State) (w : Word) (p : Phase) : (s.accept w p).kind = s.kind := rfl
@[simp] theorem State.accept_plen (s : State) (w : Word) (p : Phase) : (s.accept w p).plen = s.plen := rfl
@[simp] theorem State.accept_pwd (s : State) (w : Word) (p : Phase) : (s.accept w p).pwd = s.pwd := rfl
@[simp] theorem State.accept_bin (s : State) (w : Word) (p : Phase) : (s.accept w p).bin = s.bin := rfl
@[simp] theorem State.accept_sin (s : State) (w : Word) (p : Phase) : (s.accept w p).sin = s.sin := rfl
@[simp] theorem State.accept_bout (s : State) (w : Word) (p : Phase) : (s.accept w p).bout = s.bout := rfl
@[simp] theorem State.accept_sout (s : State) (w : Word) (p : Phase) : (s.accept w p).sout = s.sout := rfl
@[simp] theorem State.accept_hid (s : State) (w : Word) (p : Phase) :
    (s.accept w p).hid = { s.hid with opw := w, phase := p } := rfl
@[simp] theorem State.accept_grid (s : State) (w : Word) (p : Phase) : (s.accept w p).grid = s.grid := rfl
@[simp] theorem State.accept_host (s : State) (w : Word) (p : Phase) : (s.accept w p).host = s.host := rfl
@[simp] theorem State.accept_cfg (s : State) (w : Word) (p : Phase) : (s.accept w p).cfg = s.cfg := rfl
@[simp] theorem State.accept_draws (s : State) (w : Word) (p : Phase) : (s.accept w p).draws = s.draws := rfl

/-! ### complete -/

@[simp] theorem State.complete_status (s : State) (e : Option CmdError) : (s.complete e).status = Status.completed e := rfl
@[simp] theorem State.complete_gw (s : State) (e : Option CmdError) : (s.complete e).gw = s.gw := rfl
@[simp] theorem State.complete_gh (s : State) (e : Option CmdError) : (s.complete e).gh = s.gh := rfl
@[simp] theorem State.complete_cap (s : State) (e : Option CmdError) : (s.complete e).cap = s.cap := rfl
@[simp] theorem State.complete_kind (s : State) (e : Option CmdError) : (s.complete e).kind = s.kind := rfl
@[simp] theorem State.complete_plen (s : State) (e : Option CmdError) : (s.complete e).plen = s.plen := rfl
@[simp] theorem State.complete_pwd (s : State) (e : Option CmdError) : (s.complete e).pwd = s.pwd := rfl
@[simp] theorem State.complete_bin (s : State) (e : Option CmdError) : (s.complete e).bin = s.bin := rfl
@[simp] theorem State.complete_sin (s : State) (e : Option CmdError) : (s.complete e).sin = s.sin := rfl
@[simp] theorem State.complete_bout (s : State) (e : Option CmdError) : (s.complete e).bout = s.bout := rfl
@[simp] theorem State.complete_sout (s : State) (e : Option CmdError) : (s.complete e).sout = s.sout := rfl
@[simp] theorem State.complete_hid (s : State) (e : Option CmdError) :
    (s.complete e).hid = { s.hid with phase := .idle } := rfl
@[simp] theorem State.complete_grid (s : State) (e : Option CmdError) : (s.complete e).grid = s.grid := rfl
@[simp] theorem State.complete_host (s : State) (e : Option CmdError) : (s.complete e).host = s.host := rfl
@[simp] theorem State.complete_cfg (s : State) (e : Option CmdError) : (s.complete e).cfg = s.cfg := rfl
@[simp] theorem State.complete_draws (s : State) (e : Option CmdError) : (s.complete e).draws = s.draws := rfl

/-! ### drawKind -/

@[simp] theorem State.drawKind_status (s : State) : (s.drawKind).status = s.status := rfl
@[simp] theorem State.drawKind_gw (s : State) : (s.drawKind).gw = s.gw := rfl
@[simp] theorem State.drawKind_gh (s : State) : (s.drawKind).gh = s.gh := rfl
@[simp] theorem State.drawKind_cap (s : State) : (s.drawKind).cap = s.cap := rfl
@[simp] theorem State.drawKind_kind (s : State) : (s.drawKind).kind = .written (Config.freeBit s.draws) := rfl
@[simp] theorem State.drawKind_plen (s : State) : (s.drawKind).plen = s.plen := rfl
@[simp] theorem State.drawKind_pwd (s : State) : (s.drawKind).pwd = s.pwd := rfl
@[simp] theorem State.drawKind_bin (s : State) : (s.drawKind).bin = s.bin := rfl
@[simp] theorem State.drawKind_sin (s : State) : (s.drawKind).sin = s.sin := rfl
@[simp] theorem State.drawKind_bout (s : State) : (s.drawKind).bout = s.bout := rfl
@[simp] theorem State.drawKind_sout (s : State) : (s.drawKind).sout = s.sout := rfl
@[simp] theorem State.drawKind_hid (s : State) : (s.drawKind).hid = s.hid := rfl
@[simp] theorem State.drawKind_grid (s : State) : (s.drawKind).grid = s.grid := rfl
@[simp] theorem State.drawKind_host (s : State) : (s.drawKind).host = s.host := rfl
@[simp] theorem State.drawKind_cfg (s : State) : (s.drawKind).cfg = s.cfg := rfl
@[simp] theorem State.drawKind_draws (s : State) : (s.drawKind).draws = s.draws + 1 := rfl

/-! ### drawPlen -/

@[simp] theorem State.drawPlen_status (s : State) : (s.drawPlen).status = s.status := rfl
@[simp] theorem State.drawPlen_gw (s : State) : (s.drawPlen).gw = s.gw := rfl
@[simp] theorem State.drawPlen_gh (s : State) : (s.drawPlen).gh = s.gh := rfl
@[simp] theorem State.drawPlen_cap (s : State) : (s.drawPlen).cap = s.cap := rfl
@[simp] theorem State.drawPlen_kind (s : State) : (s.drawPlen).kind = s.kind := rfl
@[simp] theorem State.drawPlen_plen (s : State) : (s.drawPlen).plen = .written (Config.freeLength s.draws) := rfl
@[simp] theorem State.drawPlen_pwd (s : State) : (s.drawPlen).pwd = s.pwd := rfl
@[simp] theorem State.drawPlen_bin (s : State) : (s.drawPlen).bin = s.bin := rfl
@[simp] theorem State.drawPlen_sin (s : State) : (s.drawPlen).sin = s.sin := rfl
@[simp] theorem State.drawPlen_bout (s : State) : (s.drawPlen).bout = s.bout := rfl
@[simp] theorem State.drawPlen_sout (s : State) : (s.drawPlen).sout = s.sout := rfl
@[simp] theorem State.drawPlen_hid (s : State) : (s.drawPlen).hid = s.hid := rfl
@[simp] theorem State.drawPlen_grid (s : State) : (s.drawPlen).grid = s.grid := rfl
@[simp] theorem State.drawPlen_host (s : State) : (s.drawPlen).host = s.host := rfl
@[simp] theorem State.drawPlen_cfg (s : State) : (s.drawPlen).cfg = s.cfg := rfl
@[simp] theorem State.drawPlen_draws (s : State) : (s.drawPlen).draws = s.draws + 1 := rfl

/-! ### drawBout -/

@[simp] theorem State.drawBout_status (s : State) : (s.drawBout).status = s.status := rfl
@[simp] theorem State.drawBout_gw (s : State) : (s.drawBout).gw = s.gw := rfl
@[simp] theorem State.drawBout_gh (s : State) : (s.drawBout).gh = s.gh := rfl
@[simp] theorem State.drawBout_cap (s : State) : (s.drawBout).cap = s.cap := rfl
@[simp] theorem State.drawBout_kind (s : State) : (s.drawBout).kind = s.kind := rfl
@[simp] theorem State.drawBout_plen (s : State) : (s.drawBout).plen = s.plen := rfl
@[simp] theorem State.drawBout_pwd (s : State) : (s.drawBout).pwd = s.pwd := rfl
@[simp] theorem State.drawBout_bin (s : State) : (s.drawBout).bin = s.bin := rfl
@[simp] theorem State.drawBout_sin (s : State) : (s.drawBout).sin = s.sin := rfl
@[simp] theorem State.drawBout_bout (s : State) : (s.drawBout).bout = .written s.freeBytesIn := rfl
@[simp] theorem State.drawBout_sout (s : State) : (s.drawBout).sout = s.sout := rfl
@[simp] theorem State.drawBout_hid (s : State) : (s.drawBout).hid = s.hid := rfl
@[simp] theorem State.drawBout_grid (s : State) : (s.drawBout).grid = s.grid := rfl
@[simp] theorem State.drawBout_host (s : State) : (s.drawBout).host = s.host := rfl
@[simp] theorem State.drawBout_cfg (s : State) : (s.drawBout).cfg = s.cfg := rfl
@[simp] theorem State.drawBout_draws (s : State) : (s.drawBout).draws = s.draws + 1 := rfl

/-! ### writeHeader -/

@[simp] theorem State.writeHeader_status (s : State) (k : Kind) (len : BitVec 64) : (s.writeHeader k len).status = s.status := rfl
@[simp] theorem State.writeHeader_gw (s : State) (k : Kind) (len : BitVec 64) : (s.writeHeader k len).gw = s.gw := rfl
@[simp] theorem State.writeHeader_gh (s : State) (k : Kind) (len : BitVec 64) : (s.writeHeader k len).gh = s.gh := rfl
@[simp] theorem State.writeHeader_cap (s : State) (k : Kind) (len : BitVec 64) : (s.writeHeader k len).cap = s.cap := rfl
@[simp] theorem State.writeHeader_kind (s : State) (k : Kind) (len : BitVec 64) : (s.writeHeader k len).kind = .written k.code := rfl
@[simp] theorem State.writeHeader_plen (s : State) (k : Kind) (len : BitVec 64) : (s.writeHeader k len).plen = .written len := rfl
@[simp] theorem State.writeHeader_pwd (s : State) (k : Kind) (len : BitVec 64) : (s.writeHeader k len).pwd = s.pwd := rfl
@[simp] theorem State.writeHeader_bin (s : State) (k : Kind) (len : BitVec 64) : (s.writeHeader k len).bin = s.bin := rfl
@[simp] theorem State.writeHeader_sin (s : State) (k : Kind) (len : BitVec 64) : (s.writeHeader k len).sin = s.sin := rfl
@[simp] theorem State.writeHeader_bout (s : State) (k : Kind) (len : BitVec 64) : (s.writeHeader k len).bout = s.bout := rfl
@[simp] theorem State.writeHeader_sout (s : State) (k : Kind) (len : BitVec 64) : (s.writeHeader k len).sout = s.sout := rfl
@[simp] theorem State.writeHeader_hid (s : State) (k : Kind) (len : BitVec 64) : (s.writeHeader k len).hid = s.hid := rfl
@[simp] theorem State.writeHeader_grid (s : State) (k : Kind) (len : BitVec 64) : (s.writeHeader k len).grid = s.grid := rfl
@[simp] theorem State.writeHeader_host (s : State) (k : Kind) (len : BitVec 64) : (s.writeHeader k len).host = s.host := rfl
@[simp] theorem State.writeHeader_cfg (s : State) (k : Kind) (len : BitVec 64) : (s.writeHeader k len).cfg = s.cfg := rfl
@[simp] theorem State.writeHeader_draws (s : State) (k : Kind) (len : BitVec 64) : (s.writeHeader k len).draws = s.draws := rfl

/-! ### collect -/

@[simp] theorem State.collect_status (s : State) (p : Pixel) : (s.collect p).status = s.status := rfl
@[simp] theorem State.collect_gw (s : State) (p : Pixel) : (s.collect p).gw = s.gw := rfl
@[simp] theorem State.collect_gh (s : State) (p : Pixel) : (s.collect p).gh = s.gh := rfl
@[simp] theorem State.collect_cap (s : State) (p : Pixel) : (s.collect p).cap = s.cap := rfl
@[simp] theorem State.collect_kind (s : State) (p : Pixel) : (s.collect p).kind = s.kind := rfl
@[simp] theorem State.collect_plen (s : State) (p : Pixel) : (s.collect p).plen = s.plen := rfl
@[simp] theorem State.collect_pwd (s : State) (p : Pixel) : (s.collect p).pwd = s.pwd := rfl
@[simp] theorem State.collect_bin (s : State) (p : Pixel) : (s.collect p).bin = s.bin := rfl
@[simp] theorem State.collect_sin (s : State) (p : Pixel) : (s.collect p).sin = s.sin := rfl
@[simp] theorem State.collect_bout (s : State) (p : Pixel) : (s.collect p).bout = s.bout := rfl
@[simp] theorem State.collect_sout (s : State) (p : Pixel) : (s.collect p).sout = s.sout := rfl
@[simp] theorem State.collect_hid (s : State) (p : Pixel) :
    (s.collect p).hid = { s.hid with latch := p, acc := s.hid.acc ++ [channelSym (p.channel (s.hid.k % 3))], k := s.hid.k + 1 } := rfl
@[simp] theorem State.collect_grid (s : State) (p : Pixel) : (s.collect p).grid = s.grid := rfl
@[simp] theorem State.collect_host (s : State) (p : Pixel) : (s.collect p).host = s.host := rfl
@[simp] theorem State.collect_cfg (s : State) (p : Pixel) : (s.collect p).cfg = s.cfg := rfl
@[simp] theorem State.collect_draws (s : State) (p : Pixel) : (s.collect p).draws = s.draws := rfl

/-! ### enter -/

@[simp] theorem State.enter_status (s : State) (p : Phase) : (s.enter p).status = s.status := rfl
@[simp] theorem State.enter_gw (s : State) (p : Phase) : (s.enter p).gw = s.gw := rfl
@[simp] theorem State.enter_gh (s : State) (p : Phase) : (s.enter p).gh = s.gh := rfl
@[simp] theorem State.enter_cap (s : State) (p : Phase) : (s.enter p).cap = s.cap := rfl
@[simp] theorem State.enter_kind (s : State) (p : Phase) : (s.enter p).kind = s.kind := rfl
@[simp] theorem State.enter_plen (s : State) (p : Phase) : (s.enter p).plen = s.plen := rfl
@[simp] theorem State.enter_pwd (s : State) (p : Phase) : (s.enter p).pwd = s.pwd := rfl
@[simp] theorem State.enter_bin (s : State) (p : Phase) : (s.enter p).bin = s.bin := rfl
@[simp] theorem State.enter_sin (s : State) (p : Phase) : (s.enter p).sin = s.sin := rfl
@[simp] theorem State.enter_bout (s : State) (p : Phase) : (s.enter p).bout = s.bout := rfl
@[simp] theorem State.enter_sout (s : State) (p : Phase) : (s.enter p).sout = s.sout := rfl
@[simp] theorem State.enter_hid (s : State) (p : Phase) : (s.enter p).hid = { s.hid with phase := p } := rfl
@[simp] theorem State.enter_grid (s : State) (p : Phase) : (s.enter p).grid = s.grid := rfl
@[simp] theorem State.enter_host (s : State) (p : Phase) : (s.enter p).host = s.host := rfl
@[simp] theorem State.enter_cfg (s : State) (p : Phase) : (s.enter p).cfg = s.cfg := rfl
@[simp] theorem State.enter_draws (s : State) (p : Phase) : (s.enter p).draws = s.draws := rfl

/-! ### withScript -/

@[simp] theorem State.withScript_status (s : State) (script : List Action) : (s.withScript script).status = s.status := rfl
@[simp] theorem State.withScript_gw (s : State) (script : List Action) : (s.withScript script).gw = s.gw := rfl
@[simp] theorem State.withScript_gh (s : State) (script : List Action) : (s.withScript script).gh = s.gh := rfl
@[simp] theorem State.withScript_cap (s : State) (script : List Action) : (s.withScript script).cap = s.cap := rfl
@[simp] theorem State.withScript_kind (s : State) (script : List Action) : (s.withScript script).kind = s.kind := rfl
@[simp] theorem State.withScript_plen (s : State) (script : List Action) : (s.withScript script).plen = s.plen := rfl
@[simp] theorem State.withScript_pwd (s : State) (script : List Action) : (s.withScript script).pwd = s.pwd := rfl
@[simp] theorem State.withScript_bin (s : State) (script : List Action) : (s.withScript script).bin = s.bin := rfl
@[simp] theorem State.withScript_sin (s : State) (script : List Action) : (s.withScript script).sin = s.sin := rfl
@[simp] theorem State.withScript_bout (s : State) (script : List Action) : (s.withScript script).bout = s.bout := rfl
@[simp] theorem State.withScript_sout (s : State) (script : List Action) : (s.withScript script).sout = s.sout := rfl
@[simp] theorem State.withScript_hid (s : State) (script : List Action) : (s.withScript script).hid = s.hid := rfl
@[simp] theorem State.withScript_grid (s : State) (script : List Action) : (s.withScript script).grid = s.grid := rfl
@[simp] theorem State.withScript_host (s : State) (script : List Action) :
    (s.withScript script).host = { s.host with script := script } := rfl
@[simp] theorem State.withScript_cfg (s : State) (script : List Action) : (s.withScript script).cfg = s.cfg := rfl
@[simp] theorem State.withScript_draws (s : State) (script : List Action) : (s.withScript script).draws = s.draws := rfl

end Sys2Proof.Machine
end

