-- ==== Sys2Proof/Laws/Ops.lean ====
section
/-! SUPPORT. One lemma per shared operation: everything it can do, for the proofs to cite instead of unfolding it. -/

namespace Sys2Proof.Machine

/-! ### STATUS -/

@[simp] theorem Status.busy_zero : Status.busy 0 = false := by decide
@[simp] theorem Status.busy_running : Status.busy Status.running = true := by decide
@[simp] theorem Status.done_running : Status.done Status.running = false := by decide
@[simp] theorem Status.err_running : Status.err Status.running = 0 := by decide

@[simp] theorem Status.busy_completed (e : Option CmdError) : Status.busy (Status.completed e) = false := by
  rcases e with _ | e
  · decide
  · cases e <;> decide

@[simp] theorem Status.done_completed (e : Option CmdError) : Status.done (Status.completed e) = true := by
  rcases e with _ | e
  · decide
  · cases e <;> decide

@[simp] theorem Status.err_completed (e : Option CmdError) : Status.err (Status.completed e) = errorCode e := by
  rcases e with _ | e
  · decide
  · cases e <;> decide

/-- A completed outcome has code 0 exactly when there is no error. -/
@[simp] theorem errorCode_eq_zero (e : Option CmdError) : errorCode e = 0 ↔ e = none := by
  rcases e with _ | e
  · simp [errorCode]
  · cases e <;> simp [errorCode]

@[simp] theorem State.busy_accept (s : State) (w : Word) (p : Phase) : (s.accept w p).busy = true :=
  Status.busy_running

@[simp] theorem State.busy_complete (s : State) (e : Option CmdError) : (s.complete e).busy = false :=
  Status.busy_completed e

@[simp] theorem State.done_complete (s : State) (e : Option CmdError) : (s.complete e).done = true :=
  Status.done_completed e

@[simp] theorem State.err_complete (s : State) (e : Option CmdError) : (s.complete e).err = errorCode e :=
  Status.err_completed e

@[simp] theorem State.busy_withScript (s : State) (l : List Action) : (s.withScript l).busy = s.busy := rfl

/-! ### Operands and results -/

@[simp] theorem operand_written {α : Type} (r : RegName) (v : α) (k : α → Result) :
    operand r (.written v) k = k v := rfl

@[simp] theorem operand_unwritten {α : Type} (r : RegName) (k : α → Result) :
    operand r (.unwritten : Reg α) k = .fault (.unwrittenOperand r) := rfl

/-- A command goes on only with a written operand. -/
theorem operand_next {α : Type} {r : RegName} {c : Reg α} {k : α → Result} {t : State} :
    operand r c k = .next t ↔ ∃ v, c = .written v ∧ k v = .next t := by
  cases c <;> simp

theorem finishWithBout_next {s t : State} {b : Bytes} :
    finishWithBout s b = .next t ↔
      withinBound b.length s.cfg.bufBytes = true ∧ t = State.complete { s with bout := .written b } none := by
  unfold finishWithBout
  split
  · next h => simp [h, eq_comm]
  · next h => simp [h]

theorem finishWithSout_next {s t : State} {y : Syms} :
    finishWithSout s y = .next t ↔
      withinBound y.length s.cfg.bufSyms = true ∧ t = State.complete { s with sout := .written y } none := by
  unfold finishWithSout
  split
  · next h => simp [h, eq_comm]
  · next h => simp [h]

/-! ### The collaborator's calls -/

theorem withGeometry_next {s t : State} {k : State → Result} :
    withGeometry s k = .next t ↔
      s.grid.fails = false ∧ k { s with hid := { s.hid with geom := (s.grid.w, s.grid.h) } } = .next t := by
  unfold withGeometry
  split
  · next h => simp [h]
  · next h => simp [h]

theorem Grid.get_ok {g : Grid} {x y : Nat} {p : Pixel} :
    g.get x y = .ok p ↔ g.fails = false ∧ x < g.w ∧ y < g.h ∧ p = Memory.readPixel g.mem (y * g.w + x) := by
  unfold Grid.get
  split
  · next h => simp [h]
  · next h =>
    split
    · next hb => simp [h, hb, eq_comm]
    · next hb =>
      simp only [reduceCtorEq, false_iff]
      rintro ⟨-, hx, hy, -⟩
      exact hb ⟨hx, hy⟩

theorem Grid.set_ok {g g' : Grid} {x y : Nat} {p : Pixel} :
    g.set x y p = .ok g' ↔
      g.fails = false ∧ x < g.w ∧ y < g.h ∧ g' = { g with mem := Memory.writePixel g.mem (y * g.w + x) p } := by
  unfold Grid.set
  split
  · next h => simp [h]
  · next h =>
    split
    · next hb => simp [h, hb, eq_comm]
    · next hb =>
      simp only [reduceCtorEq, false_iff]
      rintro ⟨-, hx, hy, -⟩
      exact hb ⟨hx, hy⟩

theorem memRead_next {s t : State} {i : Nat} {k : Pixel → Result} :
    memRead s i k = .next t ↔
      ∃ p, s.grid.get (i % s.hid.geom.1) (i / s.hid.geom.1) = .ok p ∧ k p = .next t := by
  unfold memRead
  cases s.grid.get (i % s.hid.geom.1) (i / s.hid.geom.1) <;> simp

theorem memWrite_next {s t : State} {i : Nat} {p : Pixel} {k : State → Result} :
    memWrite s i p k = .next t ↔
      ∃ g, s.grid.set (i % s.hid.geom.1) (i / s.hid.geom.1) p = .ok g ∧ k { s with grid := g } = .next t := by
  unfold memWrite
  cases s.grid.set (i % s.hid.geom.1) (i / s.hid.geom.1) p <;> simp

/-- The coordinates of an existing pixel are inside the grid and name it (00_scope.md R15). -/
theorem pixel_coordinates {w h i : Nat} (hi : i < w * h) : i % w < w ∧ i / w < h ∧ i / w * w + i % w = i := by
  have hw : 0 < w := Nat.pos_of_ne_zero fun e => by simp [e] at hi
  exact ⟨Nat.mod_lt _ hw, Nat.div_lt_of_lt_mul hi, by rw [Nat.mul_comm]; exact Nat.div_add_mod i w⟩

/-- With the sampled geometry and an answering collaborator, a read of an existing pixel gives it (20_memory.md R62,
R65). -/
theorem memRead_inside {s : State} {i : Nat} (k : Pixel → Result) (hf : s.grid.fails = false)
    (hg : s.hid.geom = (s.grid.w, s.grid.h)) (hi : i < s.grid.w * s.grid.h) :
    memRead s i k = k (Memory.readPixel s.grid.mem i) := by
  obtain ⟨hx, hy, e⟩ := pixel_coordinates hi
  simp [memRead, Grid.get, hf, hg, hx, hy, e]

/-- With the sampled geometry and an answering collaborator, a write of an existing pixel replaces it (20_memory.md R62,
R65). -/
theorem memWrite_inside {s : State} {i : Nat} (p : Pixel) (k : State → Result) (hf : s.grid.fails = false)
    (hg : s.hid.geom = (s.grid.w, s.grid.h)) (hi : i < s.grid.w * s.grid.h) :
    memWrite s i p k = k { s with grid := { s.grid with mem := Memory.writePixel s.grid.mem i p } } := by
  obtain ⟨hx, hy, e⟩ := pixel_coordinates hi
  simp [memWrite, Grid.set, hf, hg, hx, hy, e]

/-- One symbol of a scan: the pixel it comes from is the one read, or the latch. -/
theorem nextSymbol_next {s t : State} {k : State → Result} :
    nextSymbol s k = .next t ↔
      ∃ p, k (s.collect p) = .next t ∧
        (if s.hid.k % 3 = 0 then
          s.grid.get (s.hid.k / 3 % s.hid.geom.1) (s.hid.k / 3 / s.hid.geom.1) = .ok p
        else p = s.hid.latch) := by
  unfold nextSymbol
  split
  · rw [memRead_next]
    exact ⟨fun ⟨p, hp, hk⟩ => ⟨p, hk, hp⟩, fun ⟨p, hk, hp⟩ => ⟨p, hp, hk⟩⟩
  · exact ⟨fun h => ⟨_, h, rfl⟩, by rintro ⟨p, hk, rfl⟩; exact hk⟩

/-! ### Host reads -/

@[simp] theorem Reg.value?_unwritten {α : Type} : (Reg.unwritten : Reg α).value? = none := rfl

@[simp] theorem Reg.value?_written {α : Type} (v : α) : (Reg.written v).value? = some v := rfl

/-- A free value of GW's and GH's domain is in it. -/
theorem State.freeDimIn_lt {s : State} {d : Nat} (h : s.cfg.dimBits = some d) : s.freeDimIn < 2 ^ d := by
  unfold State.freeDimIn
  rw [h]
  exact Nat.mod_lt _ (Nat.two_pow_pos d)

/-- What a host read's value is: the stored one, or a free one that advances the counter. -/
theorem hostValue_cases (s : State) (r : ReadReg) :
    (∃ v, (s.busy && r.isResult) = false ∧ storedValue s r = some v ∧ hostValue s r = (v, s)) ∨
      (((s.busy && r.isResult) = true ∨ storedValue s r = none) ∧
        hostValue s r = (freeValue s r, { s with draws := s.draws + 1 })) := by
  unfold hostValue
  cases hb : s.busy && r.isResult
  · cases hv : storedValue s r with
    | none => exact .inr ⟨.inr rfl, rfl⟩
    | some v => exact .inl ⟨v, rfl, rfl, rfl⟩
  · exact .inr ⟨.inl rfl, rfl⟩

/-- A host read changes nothing but the counter of the free values and what the host knows. -/
theorem hostRead_frame (s : State) (r : ReadReg) :
    ∃ v n, hostRead s r = (v, { s with draws := n, host := { s.host with lastRead := some v } }) := by
  unfold hostRead
  obtain ⟨v, -, -, h⟩ | ⟨-, h⟩ := hostValue_cases s r
  · exact ⟨v, s.draws, by rw [h]⟩
  · exact ⟨freeValue s r, s.draws + 1, by rw [h]⟩

end Sys2Proof.Machine
end

