-- ==== Sys2Proof/Laws/Exec.lean ====
section
/-! SUPPORT. One lemma per meaning and per step of EMBED and EXTRACT: every next state it can answer, for the proofs to
cite instead of unfolding it. -/

namespace Sys2Proof.Machine

theorem execPack_next {align : BitVec 8} {s t : State} (h : execPack align s = .next t) :
    (align = 0 ∧ t = s.complete (some .illegalCommand)) ∨
      ∃ b, s.bin = .written b ∧ t = State.complete { s with sout := .written (pack b (alignOperand align)) } none := by
  unfold execPack at h
  split at h
  · next ha => cases h; exact .inl ⟨ha, rfl⟩
  · obtain ⟨b, hb, h⟩ := operand_next.mp h
    exact .inr ⟨b, hb, (finishWithSout_next.mp h).2⟩

theorem execUnpack_next {s t : State} (h : execUnpack s = .next t) :
    ∃ y, s.sin = .written y ∧ t = State.complete { s with bout := .written (unpack y) } none := by
  obtain ⟨y, hy, h⟩ := operand_next.mp h
  exact ⟨y, hy, (finishWithBout_next.mp h).2⟩

theorem buildFrameCommand_next {k : Kind} {s t : State} (h : buildFrameCommand k s = .next t) :
    ∃ p, s.bin = .written p ∧
      (t = s.drawBout.complete (some .illegalCommand) ∨
        t = State.complete { s with bout := .written (buildFrame p k) } none) := by
  unfold buildFrameCommand at h
  obtain ⟨p, hp, h⟩ := operand_next.mp h
  refine ⟨p, hp, ?_⟩
  split at h
  · cases h; exact .inl rfl
  · exact .inr (finishWithBout_next.mp h).2

theorem execParseHeader_next {s t : State} (h : execParseHeader s = .next t) :
    ∃ hd, s.bin = .written hd ∧
      ((∃ e, t = s.drawKind.drawPlen.complete (some e)) ∨ ∃ k len, t = (s.writeHeader k len).complete none) := by
  unfold execParseHeader failParse at h
  obtain ⟨hd, hhd, h⟩ := operand_next.mp h
  refine ⟨hd, hhd, ?_⟩
  split at h
  · cases h; exact .inl ⟨_, rfl⟩
  · split at h
    · cases h; exact .inl ⟨_, rfl⟩
    · cases h; exact .inr ⟨_, _, rfl⟩

theorem execMaxPayload_next {s t : State} (h : execMaxPayload s = .next t) :
    ∃ w hh, s.gw = .written w ∧ s.gh = .written hh ∧
      t = State.complete { s with cap := .written (maxPayload w hh) } none := by
  obtain ⟨w, hw, h⟩ := operand_next.mp h
  obtain ⟨hh, hhh, h⟩ := operand_next.mp h
  cases h
  exact ⟨w, hh, hw, hhh, rfl⟩

theorem execCheckCapacity_next {s t : State} (h : execCheckCapacity s = .next t) :
    t = s.complete (some .capacityExceeded) ∨ t = s.complete none := by
  unfold execCheckCapacity at h
  obtain ⟨_, _, h⟩ := operand_next.mp h
  obtain ⟨_, _, h⟩ := operand_next.mp h
  obtain ⟨_, _, h⟩ := operand_next.mp h
  split at h <;> cases h
  · exact .inl rfl
  · exact .inr rfl

theorem embGateStep_next {s t : State} (h : embGateStep s = .next t) :
    ∃ frame, s.bin = .written frame ∧ s.grid.fails = false ∧
      ((maxPayload s.grid.w s.grid.h < frame.length ∧
          t = State.complete { s with hid := { s.hid with geom := (s.grid.w, s.grid.h) } }
            (some .capacityExceeded)) ∨
        (frame.length ≤ maxPayload s.grid.w s.grid.h ∧
          t = { s with hid :=
            { s.hid with
              geom := (s.grid.w, s.grid.h)
              stream := pack frame embedAlign
              k := 0
              phase := .embWrite
              memBefore := s.grid.mem } })) := by
  unfold embGateStep at h
  obtain ⟨frame, hfr, h⟩ := operand_next.mp h
  obtain ⟨hf, h⟩ := withGeometry_next.mp h
  refine ⟨frame, hfr, hf, ?_⟩
  split at h
  · next hc => cases h; exact .inl ⟨by simpa [overCapacity] using hc, rfl⟩
  · next hc => cases h; exact .inr ⟨by simpa [overCapacity] using hc, rfl⟩

theorem embWriteStep_next {s t : State} (h : embWriteStep s = .next t) :
    (s.hid.k = s.hid.stream.length ∧ t = s.complete none) ∨
      (s.hid.k ≠ s.hid.stream.length ∧
        ∃ i, i = s.hid.k / 3 / s.hid.geom.1 * s.grid.w + s.hid.k / 3 % s.hid.geom.1 ∧
          t = { s with
            hid := { s.hid with k := s.hid.k + 3 }
            grid := { s.grid with
              mem := Memory.writePixel s.grid.mem i
                (embedPixel s.hid.stream s.hid.k (Memory.readPixel s.grid.mem i)) } }) := by
  unfold embWriteStep at h
  split at h
  · next hk => cases h; exact .inl ⟨hk, rfl⟩
  · next hk =>
    obtain ⟨p, hp, h⟩ := memRead_next.mp h
    obtain ⟨-, -, -, rfl⟩ := Grid.get_ok.mp hp
    obtain ⟨g, hg, h⟩ := memWrite_next.mp h
    obtain ⟨-, -, -, rfl⟩ := Grid.set_ok.mp hg
    cases h
    exact .inr ⟨hk, _, rfl, rfl⟩

theorem extSizeStep_next {s t : State} (h : extSizeStep s = .next t) :
    s.grid.fails = false ∧
      ((3 * (s.grid.w * s.grid.h) < headerSyms ∧
          failExtract .notSteganographic { s with hid := { s.hid with geom := (s.grid.w, s.grid.h) } } = .next t) ∨
        (headerSyms ≤ 3 * (s.grid.w * s.grid.h) ∧
          t = { s with hid :=
            { s.hid with geom := (s.grid.w, s.grid.h), k := 0, acc := [], phase := .extHdr } })) := by
  unfold extSizeStep at h
  obtain ⟨hf, h⟩ := withGeometry_next.mp h
  refine ⟨hf, ?_⟩
  split at h
  · next hc => exact .inl ⟨hc, h⟩
  · next hc => cases h; exact .inr ⟨by simpa using hc, rfl⟩

theorem extHdrStep_next {s t : State} (h : extHdrStep s = .next t) :
    ∃ p, t = if s.hid.k + 1 = headerSyms then (s.collect p).enter .extParse else s.collect p := by
  obtain ⟨p, h, -⟩ := nextSymbol_next.mp h
  cases h
  exact ⟨p, rfl⟩

theorem extParseStep_next {s t : State} (h : extParseStep s = .next t) :
    (parseHeader (unpack s.hid.acc) = none ∧ failExtract .notSteganographic s = .next t) ∨
      ∃ k len, parseHeader (unpack s.hid.acc) = some (k, len) ∧
        t = { s.writeHeader k len with hid :=
          { s.hid with hk := k, hl := len, needed := neededSyms len, phase := .extCheck } } := by
  unfold extParseStep at h
  split at h
  · next hp => exact .inl ⟨hp, h⟩
  · next k len hp => cases h; exact .inr ⟨k, len, hp, rfl⟩

theorem extCheckStep_next {s t : State} (h : extCheckStep s = .next t) :
    (3 * (s.hid.geom.1 * s.hid.geom.2) < s.hid.needed ∧ failExtract .capacityExceeded s = .next t) ∨
      (s.hid.needed ≤ 3 * (s.hid.geom.1 * s.hid.geom.2) ∧
        ((s.cfg.rescan = true ∧ t = { s with hid := { s.hid with k := 0, acc := [], phase := .extPay } }) ∨
          (s.cfg.rescan = false ∧ t = s.enter .extPay))) := by
  unfold extCheckStep at h
  split at h
  · next hc => exact .inl ⟨hc, h⟩
  · next hc =>
    refine .inr ⟨by simpa using hc, ?_⟩
    split at h
    · next hr => cases h; exact .inl ⟨hr, rfl⟩
    · next hr => cases h; exact .inr ⟨by simpa using hr, rfl⟩

theorem extPayStep_next {s t : State} (h : extPayStep s = .next t) :
    (s.hid.k = s.hid.needed ∧ t = s.enter .extDec) ∨ (s.hid.k ≠ s.hid.needed ∧ ∃ p, t = s.collect p) := by
  unfold extPayStep at h
  split at h
  · next hk => cases h; exact .inl ⟨hk, rfl⟩
  · next hk =>
    obtain ⟨p, h, -⟩ := nextSymbol_next.mp h
    cases h
    exact .inr ⟨hk, p, rfl⟩

theorem extDecStep_next {key : Bool} {s t : State} (h : extDecStep key s = .next t) :
    failExtract .invalidKeyOrData s = .next t ∨ ∃ b, finishWithBout s b = .next t := by
  unfold extDecStep at h
  split at h
  · exact .inr ⟨_, h⟩
  · exact .inl h
  · obtain ⟨_, _, h⟩ := operand_next.mp h
    split at h
    · exact .inl h
    · exact .inr ⟨_, h⟩

end Sys2Proof.Machine
end

