-- ==== Sys2Proof/Laws/PerInstr.lean ====
section
/-! SUPPORT. A statement for all instructions, made per instruction: the fields of a command's word (30_encoding.md R91,
R98). -/

namespace Sys2Proof.Laws.WordFields

/-- The reserved fields of a command's word are 0, its opcode is at most 8, its flag is set only under OP 3 and 8, and its
alignment is nonzero exactly for PACK (30_encoding.md R91, R98). -/
def Statement (i : Instr) : Prop :=
  i.wf = true →
    Word.rsvd0 (encode i) = 0 ∧ Word.rsvd1 (encode i) = 0 ∧ (Word.op (encode i)).toNat ≤ 8 ∧
      (Word.flag (encode i) = true → Word.op (encode i) = 3 ∨ Word.op (encode i) = 8) ∧
      (Word.align (encode i) ≠ 0 ↔ Word.op (encode i) = 1)

/-- PACK's word, field by field, at each of its 256 alignments. -/
theorem fields_of_packWord_fin : ∀ x : Fin 256,
    Word.rsvd0 (encode (.pack ⟨x⟩)) = 0 ∧ Word.rsvd1 (encode (.pack ⟨x⟩)) = 0 ∧ Word.op (encode (.pack ⟨x⟩)) = 1 ∧
      Word.flag (encode (.pack ⟨x⟩)) = false ∧ Word.align (encode (.pack ⟨x⟩)) = ⟨x⟩ := by
  set_option maxRecDepth 20000 in decide

/-- PACK's word, field by field: the alignment stands alone in bits 15:8. -/
theorem fields_of_packWord (a : BitVec 8) :
    Word.rsvd0 (encode (.pack a)) = 0 ∧ Word.rsvd1 (encode (.pack a)) = 0 ∧ Word.op (encode (.pack a)) = 1 ∧
      Word.flag (encode (.pack a)) = false ∧ Word.align (encode (.pack a)) = a :=
  fields_of_packWord_fin a.toFin

theorem nop : Statement .nop := by unfold Statement; decide

theorem pack (align : BitVec 8) : Statement (.pack align) := by
  intro h
  obtain ⟨h0, h1, hop, hf, ha⟩ := fields_of_packWord align
  have hne : align ≠ 0 := by simpa [Instr.wf] using h
  exact ⟨h0, h1, by rw [hop]; decide, by simp [hf], by simp only [hop, ha, hne, ne_eq, not_false_eq_true]⟩

theorem unpack : Statement .unpack := by unfold Statement; decide
theorem buildFrameU : Statement .buildFrameU := by unfold Statement; decide
theorem buildFrameE : Statement .buildFrameE := by unfold Statement; decide
theorem parseHeader : Statement .parseHeader := by unfold Statement; decide
theorem maxPayload : Statement .maxPayload := by unfold Statement; decide
theorem checkCapacity : Statement .checkCapacity := by unfold Statement; decide
theorem embed : Statement .embed := by unfold Statement; decide
theorem extract : Statement .extract := by unfold Statement; decide
theorem extractKey : Statement .extractKey := by unfold Statement; decide

end Sys2Proof.Laws.WordFields
end

