-- ==== Sys2Proof/Tests/Slice0.lean ====
section
/-! SUPPORT. Tests of the model against the spec's own examples (95_test_vectors.md, derived there from the rules), each of
one step on a small state, and for every statement with hypotheses a witness that meets them. The words are written out bit
by bit from 30_encoding.md R91 and R97: RSVD0, ALIGN, RSVD1, F, OP. -/

namespace Sys2Proof.Tests

open Sys2Proof.Machine

/-! ### Words -/

theorem test_decode_nop : decode 0b0000000000000000_00000000_000_0_0000#32 = .ok .nop := by decide
theorem test_decode_pack_1 : decode 0b0000000000000000_00000001_000_0_0001#32 = .ok (.pack 1) := by decide
theorem test_decode_pack_3 : decode 0b0000000000000000_00000011_000_0_0001#32 = .ok (.pack 3) := by decide
theorem test_decode_pack_128 : decode 0b0000000000000000_10000000_000_0_0001#32 = .ok (.pack 128) := by decide
theorem test_decode_pack_255 : decode 0b0000000000000000_11111111_000_0_0001#32 = .ok (.pack 255) := by decide
theorem test_decode_unpack : decode 0b0000000000000000_00000000_000_0_0010#32 = .ok .unpack := by decide
theorem test_decode_buildFrameU : decode 0b0000000000000000_00000000_000_0_0011#32 = .ok .buildFrameU := by decide
theorem test_decode_buildFrameE : decode 0b0000000000000000_00000000_000_1_0011#32 = .ok .buildFrameE := by decide
theorem test_decode_parseHeader : decode 0b0000000000000000_00000000_000_0_0100#32 = .ok .parseHeader := by decide
theorem test_decode_maxPayload : decode 0b0000000000000000_00000000_000_0_0101#32 = .ok .maxPayload := by decide
theorem test_decode_checkCapacity : decode 0b0000000000000000_00000000_000_0_0110#32 = .ok .checkCapacity := by decide
theorem test_decode_embed : decode 0b0000000000000000_00000000_000_0_0111#32 = .ok .embed := by decide
theorem test_decode_extract : decode 0b0000000000000000_00000000_000_0_1000#32 = .ok .extract := by decide
theorem test_decode_extractKey : decode 0b0000000000000000_00000000_000_1_1000#32 = .ok .extractKey := by decide

/-- The illegal words of 95_test_vectors.md L2.1, each refused by name. -/
theorem test_decode_refuses :
    decode 0x00000001 = .error .alignZero ∧ decode 0x00000012 = .error .flagNotAllowed ∧
      decode 0x00000014 = .error .flagNotAllowed ∧ decode 0x00000107 = .error .alignNotAllowed ∧
      decode 0x00000020 = .error .reservedBits ∧ decode 0x00000009 = .error (.reservedOpcode 9) ∧
      decode 0x0000000F = .error (.reservedOpcode 15) ∧ decode 0x00010000 = .error .reservedBits ∧
      decode 0x80000007 = .error .reservedBits ∧ decode 0xFFFFFFFF = .error .reservedBits := by decide

/-- The one ill-formed term of the syntax, refused by the well-formedness check and by the decoder. -/
theorem test_wf_pack_zero :
    (Instr.pack 0).wf = false ∧ (∃ e, decode (encode (.pack 0)) = .error e) ∧ (Instr.pack 1).wf = true :=
  ⟨by decide, ⟨.alignZero, by decide⟩, by decide⟩

/-- The host's two readings of a table row: its word, and a word with a bit above the command word. -/
theorem test_decodeTableWord :
    decodeTableWord 32 0x00000018 = some .extractKey ∧ decodeTableWord 32 0x00000009 = none ∧
      decodeTableWord 8 0x0107 = some .embed ∧ decodeTableWord 40 0x100000007 = none := by decide

/-! ### Small states -/

/-- What a field of the next state is; nothing where the outcome is not a next state. -/
def fieldOf {α : Type} (f : State → α) : Result → Option α
  | .next s => some (f s)
  | .fault _ => none
  | .refused _ => none

/-- The fault of an outcome. -/
def faultOf : Result → Option Fault
  | .next _ => none
  | .fault f => some f
  | .refused _ => none

/-- The refusal of an outcome. -/
def refusalOf : Result → Option Refusal
  | .next _ => none
  | .fault _ => none
  | .refused r => some r

/-- An idle core with a `w` x `h` grid of channels at 0. -/
def atRest (w h : Nat) : State := { State.reset with grid := { w := w, h := h, mem := [], fails := false } }

/-- The same with an operand in BIN. -/
def withBin (w h : Nat) (b : Bytes) : State := { atRest w h with bin := .written b }

/-- A command that runs, in a phase. -/
def running (s : State) (i : Instr) (p : Phase) : State :=
  { s with status := 0x01, hid := { s.hid with phase := p, opw := encode i } }

/-- The header `DE AD C0 DE 00..00 <n>` and its kin. -/
def header (m : Bytes) (n : Byte) : Bytes := m ++ [0, 0, 0, 0, 0, 0, 0, n]

/-- The marker bytes of 42_frame_codec.md R151. -/
def plainMark : Bytes := [0xDE, 0xAD, 0xC0, 0xDE]
/-- The marker bytes of 42_frame_codec.md R151. -/
def cryptMark : Bytes := [0x13, 0x37, 0xC0, 0xDE]

/-! ### One step of each command, from 95_test_vectors.md L2 -/

/-- L2.2. -/
theorem test_nop : fieldOf (·.status) (exec .nop { atRest 0 0 with status := 0x22 }) = some 0x02 := by decide

/-- L2.3: `B4` at alignment 3. -/
theorem test_pack : fieldOf (·.sout) (exec (.pack 3) (withBin 0 0 [0xB4])) = some (.written [2, 3, 1, 0, 0, 0]) := by
  decide

/-- L2.3: `12 34` at alignment 3; and 10_state.md R35, a result one symbol too long. -/
theorem test_pack_bound :
    fieldOf (·.sout) (exec (.pack 3) (withBin 0 0 [0x12, 0x34])) = some (.written [0, 1, 0, 2, 0, 3, 1, 0, 0]) ∧
      refusalOf (exec (.pack 3)
        { withBin 0 0 [0x12, 0x34] with cfg := { Config.default with bufSyms := some 8 } }) = some .resultTooLong := by
  decide

/-- L2.3: the fifth symbol is dropped. -/
theorem test_unpack :
    fieldOf (·.bout) (exec .unpack { atRest 0 0 with sin := .written [3, 2, 1, 0, 1] }) = some (.written [0xE4]) := by
  decide

/-- L2.4. -/
theorem test_buildFrameU :
    fieldOf (·.bout) (exec .buildFrameU (withBin 0 0 [0x41, 0x42])) =
      some (.written [0xDE, 0xAD, 0xC0, 0xDE, 0, 0, 0, 0, 0, 0, 0, 2, 0x41, 0x42]) := by
  decide

/-- L2.4. -/
theorem test_buildFrameE :
    fieldOf (·.bout) (exec .buildFrameE (withBin 0 0 [0x41])) =
      some (.written [0x13, 0x37, 0xC0, 0xDE, 0, 0, 0, 0, 0, 0, 0, 1, 0x41]) := by
  decide

/-- L2.4: length 256, big-endian; only the first 12 bytes are read. -/
theorem test_parseHeader :
    fieldOf (fun s => (s.status, s.kind, s.plen))
      (exec .parseHeader (withBin 0 0 (cryptMark ++ [0, 0, 0, 0, 0, 0, 1, 0, 7]))) =
        some (0x02, .written 1, .written 256) := by
  decide

/-- L2.4: the byte-swapped marker, and 11 bytes. -/
theorem test_parseHeader_errors :
    fieldOf (·.status) (exec .parseHeader (withBin 0 0 (header [0xDE, 0xC0, 0xAD, 0xDE] 0))) = some 0x22 ∧
      fieldOf (·.status) (exec .parseHeader (withBin 0 0 (plainMark ++ [0, 0, 0, 0, 0, 0, 0]))) = some 0x42 := by
  decide

/-- L2.5: 3 x 5 truncates; L2.8: after reset the operand is UNWRITTEN. -/
theorem test_maxPayload :
    fieldOf (·.cap) (exec .maxPayload { atRest 0 0 with gw := .written 3, gh := .written 5 }) = some (.written 11) ∧
      faultOf (exec .maxPayload State.reset) = some (.unwrittenOperand .gw) := by
  decide

/-- L2.5: exact. -/
theorem test_maxPayload_large :
    fieldOf (·.cap)
      (exec .maxPayload { atRest 0 0 with gw := .written 4294967295, gh := .written 4294967295 }) =
        some (.written 13835058048839712768) := by
  decide

/-- L2.5: the comparison is strict. -/
theorem test_checkCapacity :
    fieldOf (·.status)
        (exec .checkCapacity { withBin 0 0 (header plainMark 0) with gw := .written 4, gh := .written 4 }) = some 0x02 ∧
      fieldOf (·.status)
        (exec .checkCapacity
          { withBin 0 0 (header plainMark 0 ++ [1]) with gw := .written 4, gh := .written 4 }) = some 0x12 := by
  decide

/-- L2.6: 13 bytes in a 4 x 4 grid, and 12 bytes. -/
theorem test_embed_gate :
    fieldOf (fun s => (s.status, s.grid.mem)) (exec .embed (withBin 4 4 (header plainMark 1 ++ [1]))) =
        some (0x12, []) ∧
      fieldOf (fun s => (s.hid.phase, s.hid.stream.length)) (exec .embed (withBin 4 4 (header plainMark 0))) =
        some (.embWrite, 48) := by
  decide

/-- L2.6: `00` in `FF FF FF`, `FF FF FF`: the second pixel's step. -/
theorem test_embed_write :
    fieldOf (·.grid.mem)
      (exec .embed
        { running (atRest 2 1) .embed .embWrite with
          grid := { w := 2, h := 1, mem := [(0, 0xFC), (1, 0xFC), (2, 0xFC), (3, 0xFF), (4, 0xFF), (5, 0xFF)], fails := false }
          hid :=
            { Hidden.reset with
              phase := .embWrite
              stream := [0, 0, 0, 0, 0, 0]
              k := 3
              geom := (2, 1) } }) =
      some [(0, 0xFC), (1, 0xFC), (2, 0xFC), (3, 0xFC), (4, 0xFC), (5, 0xFC)] := by
  decide

/-- L2.7: 3 x 5 is too small for a header; 4 x 4 is not. -/
theorem test_extract_size :
    fieldOf (·.status) (exec .extract (atRest 3 5)) = some 0x22 ∧
      fieldOf (·.hid.phase) (exec .extract (atRest 4 4)) = some .extHdr := by
  decide

/-- L2.7, P1's last step: the payload's symbols follow the header's. -/
theorem test_extract_dec :
    fieldOf (fun s => (s.status, s.bout))
      (exec .extract
        { running (atRest 5 4) .extract .extDec with
          hid :=
            { Hidden.reset with
              phase := .extDec
              acc := List.replicate 48 0 ++ [1, 0, 0, 1, 1, 0, 0, 2]
              needed := 56 } }) = some (0x02, .written [0x41, 0x42]) := by
  decide

/-- L2.7: an ENCRYPTED marker with PWD UNWRITTEN, and without the flag. -/
theorem test_extractKey_dec :
    faultOf (exec .extractKey
        { running (atRest 5 4) .extractKey .extDec with
          hid := { Hidden.reset with phase := .extDec, hk := .encrypted, needed := 52 } }) =
        some (.unwrittenOperand .pwd) ∧
      fieldOf (·.status) (exec .extract
        { running (atRest 5 4) .extract .extDec with
          hid := { Hidden.reset with phase := .extDec, hk := .encrypted, needed := 52 } }) = some 0x32 := by
  decide

/-- L2.7: PWD is not read for an UNENCRYPTED marker; L2.8: the capacity check comes before the key. -/
theorem test_extractKey_check :
    fieldOf (fun s => (s.status, s.bout)) (exec .extractKey
        { running (atRest 5 4) .extractKey .extDec with
          hid := { Hidden.reset with phase := .extDec, needed := 48 } }) = some (0x02, .written []) ∧
      fieldOf (·.status) (exec .extractKey
        { running (atRest 4 4) .extractKey .extCheck with
          hid := { Hidden.reset with phase := .extCheck, hk := .encrypted, needed := 52, geom := (4, 4) } }) =
        some 0x12 := by
  decide

/-! ### One step around the commands -/

/-- L2.8: after reset a word with a reserved opcode completes with 0x42. -/
theorem test_step_illegal : fieldOf (·.status) (step (State.reset.withFetchWord 32 0x00000009)) = some 0x42 := by decide

/-- L2.2: NOP right after reset. -/
theorem test_step_nop : fieldOf (·.status) (step (State.reset.withFetchWord 32 0x00000000)) = some 0x02 := by decide

/-- 60_exceptions.md R257 names commands only: right after reset a host read of an UNWRITTEN register goes on. -/
theorem test_step_get_unwritten :
    fieldOf (fun s => (s.host.script, s.bout, s.draws)) (step (State.reset.withScript [.get .bout])) =
      some ([], .unwritten, 1) := by
  decide

/-- L2.8: a CMD write while EMBED is BUSY is ignored. -/
theorem test_step_busy :
    fieldOf (fun s => (s.status, s.hid.phase, s.host.script))
      (step ((running (atRest 4 4) .embed .embWrite).withScript [.setCmd 0])) = some (0x01, .embWrite, []) := by
  decide

/-- L2.8: reset at a moment at which EMBED writes. -/
theorem test_step_reset :
    fieldOf (fun s => (s.status, s.bin, s.hid.phase))
      (step ((running (withBin 4 4 [1]) .embed .embWrite).withScript [.reset])) = some (0x00, .unwritten, .idle) := by
  decide

/-! ### Witnesses

For each statement of Certificates/Slice0/Obligations.lean that has hypotheses, concrete data that meet them, clause by
clause. -/

theorem fits_none (n : Nat) : Fits n none := fun _ h => nomatch h

theorem fits_some {n m : Nat} (h : n ≤ m) : Fits n (some m) := fun _ e => Option.some.inj e ▸ h

theorem not_fits_some {n m : Nat} (h : m < n) : ¬Fits n (some m) := fun f => absurd (f m rfl) (Nat.not_le.mpr h)

theorem busy_reset : State.reset.busy = false := by decide

/-- A payload of any length exists. -/
theorem exists_payload (n : Nat) : ∃ p : Bytes, (withBin 0 0 p).bin = .written p ∧ n ≤ p.length :=
  ⟨List.replicate n 0, rfl, by simp⟩

/-- A configuration with bounded registers. -/
def bounded (n : Nat) : Config := { Config.default with dimBits := some n, bufBytes := some n, bufSyms := some n }

/-- An idle state meets the invariant when its STATUS is legal and its grid canonical. -/
theorem inv_of_idle {s : State} (hs : StatusLegal s.status) (hb : s.busy = false) (hp : s.hid.phase = .idle)
    (hg : Grid.wf s.grid) : Inv s where
  status := hs
  idle := by simp [hb, hp]
  grid := hg
  command := by simp [PhaseMatches, hp]
  embed := by simp [hp]
  geometry := by simp [hp, Phase.scanning]
  extract := by simp [ExtractProgress, hp]

theorem witness_DecodeOfEncode : (Instr.pack 1).wf = true ∧ (Instr.pack 255).wf = true ∧ Instr.extractKey.wf = true := by
  decide

theorem witness_EncodeOfDecode :
    decode 0x00000101 = .ok (.pack 1) ∧ decode 0x0000FF01 = .ok (.pack 255) ∧ decode 0 = .ok .nop := by decide

theorem witness_StepRunsIssuedCommand :
    (let s := (running (atRest 4 4) .embed .embWrite).withScript [.setCmd 0];
      s.host.script = .setCmd 0 :: [] ∧ s.busy = true) ∧
    (let s := (atRest 4 4).withScript [.setCmd 9];
      s.host.script = .setCmd 9 :: [] ∧ s.busy = false ∧ decode 9 = .error (.reservedOpcode 9)) ∧
    (let s := (atRest 4 4).withScript [.setCmd 0x18];
      s.host.script = .setCmd 0x18 :: [] ∧ s.busy = false ∧ decode 0x18 = .ok .extractKey) := by
  decide

theorem witness_StepRunsRunningCommand :
    (let s := running (atRest 4 4) .embed .embWrite;
      s.busy = true ∧ decode s.hid.opw = .ok .embed ∧ s.host.script = []) ∧
    (let s := (running (atRest 4 4) .extract .extSize).withScript [.coreTurn];
      s.busy = true ∧ decode s.hid.opw = .ok .extract ∧ s.host.script = .coreTurn :: []) ∧
    (let s := (running (atRest 4 4) .extractKey .extSize).withScript [.wait];
      s.busy = true ∧ decode s.hid.opw = .ok .extractKey ∧ s.host.script = .wait :: [] ∧ s.done = false) := by
  decide

theorem witness_IllegalWordCompletesAtOnce :
    (let s := (atRest 4 4).withScript [.setCmd 0x80000007];
      decode 0x80000007 = .error .reservedBits ∧ s.busy = false ∧ s.host.script = .setCmd 0x80000007 :: []) ∧
    9 ≤ ((0x00000009 : Word).extractLsb' 0 4).toNat ∧ 9 ≤ ((0xFFFFFFFF : Word).extractLsb' 0 4).toNat := by
  decide

/-- One command that completes, with and without an error, and one that goes on. -/
theorem witness_CommandRunsOrCompletes :
    (running (atRest 0 0) .nop .idle).status = 0x01 ∧ (∃ t, exec .nop (running (atRest 0 0) .nop .idle) = .next t) ∧
      (∃ t, exec .extract (running (atRest 3 5) .extract .extSize) = .next t) ∧
      (∃ t, exec .extract (running (atRest 4 4) .extract .extSize) = .next t) :=
  ⟨rfl, ⟨_, rfl⟩, ⟨_, rfl⟩, ⟨_, rfl⟩⟩

theorem witness_ErrorEntryIsPrecise :
    ∃ t, (running (withBin 0 0 [0]) .embed .embGate).status = 0x01 ∧
      exec .embed (running (withBin 0 0 [0]) .embed .embGate) = .next t ∧ t.busy = false ∧ t.err ≠ 0 :=
  ⟨_, rfl, rfl, by decide, by decide⟩

/-- One next state for each group of commands the statement tells apart. -/
theorem witness_CommandsWriteOnlyTheirRegisters :
    (∃ t, exec (.pack 1) (withBin 0 0 [0]) = .next t) ∧
      (∃ t, exec .unpack { atRest 0 0 with sin := .written [] } = .next t) ∧
      (∃ t, exec .buildFrameU (withBin 0 0 []) = .next t) ∧ (∃ t, exec .parseHeader (withBin 0 0 []) = .next t) ∧
      (∃ t, exec .maxPayload { atRest 0 0 with gw := .written 0, gh := .written 0 } = .next t) ∧
      (∃ t, exec .embed (withBin 0 0 []) = .next t) ∧ (∃ t, exec .extract (atRest 0 0) = .next t) :=
  ⟨⟨_, rfl⟩, ⟨_, rfl⟩, ⟨_, rfl⟩, ⟨_, rfl⟩, ⟨_, rfl⟩, ⟨_, rfl⟩, ⟨_, rfl⟩⟩

theorem witness_UnwrittenOperandFaults :
    ((1 : BitVec 8) ≠ 0 ∧ (atRest 0 0).bin = .unwritten) ∧ (atRest 0 0).sin = .unwritten ∧
      ((running (atRest 0 0) .embed .embGate).bin = .unwritten ∧
        (running (atRest 0 0) .embed .embGate).hid.phase = .embGate) ∧
      ((withBin 0 0 []).gw = .unwritten ∧ (withBin 0 0 []).bin = .written []) ∧
      (let s := { withBin 0 0 [] with gw := .written 0 };
        s.gw = .written 0 ∧ s.gh = .unwritten ∧ s.bin = .written []) ∧
      (let s := { running (atRest 5 4) .extractKey .extDec with
          hid := { Hidden.reset with phase := .extDec, hk := .encrypted, needed := 52 } };
        s.hid.phase = .extDec ∧ s.hid.hk = .encrypted ∧ s.pwd = .unwritten ∧
          faultOf (exec .extractKey s) = some (.unwrittenOperand .pwd)) := by
  decide

theorem witness_NopCompletes : (0x20 : Word).extractLsb' 0 4 = 0 ∧ (0x20 : Word) ≠ 0 := by decide

theorem witness_PackFunction :
    1 ≤ 1 ∧ 1 ≤ 8 ∧ 0 < ([0xE4] : Bytes).length ∧ 3 < 4 ∧ 4 * ([0xE4] : Bytes).length ≤ 7 ∧
      7 < (pack [0xE4] 8).length := by
  decide

theorem witness_UnpackFunction : 4 * 0 + 3 < ([3, 2, 1, 0] : Syms).length := by decide

theorem witness_CodecRoundTrip : (1 ≤ 1 ∧ 1 ≤ 4) ∧ 1 ≤ 4 ∧ 4 ≤ 4 := by decide

theorem witness_PackCommand :
    ((withBin 0 0 [0xB4]).bin = .written [0xB4] ∧ (3 : BitVec 8) ≠ 0 ∧
      Fits (pack [0xB4] 3).length (withBin 0 0 [0xB4]).cfg.bufSyms) ∧
    Fits (pack [0xB4] 3).length (bounded 6).bufSyms ∧ ¬Fits (pack [0xB4] 3).length (bounded 5).bufSyms ∧
    (atRest 0 0).bin = .unwritten :=
  ⟨⟨rfl, by decide, fits_none _⟩, fits_some (by decide), not_fits_some (by decide), rfl⟩

theorem witness_UnpackCommand :
    ({ atRest 0 0 with sin := .written [0, 1, 2, 3] } : State).sin = .written [0, 1, 2, 3] ∧
    Fits (([0, 1, 2, 3] : Syms).length / 4) (bounded 1).bufBytes ∧
    ¬Fits (([0, 1, 2, 3] : Syms).length / 4) (bounded 0).bufBytes ∧ (atRest 0 0).sin = .unwritten ∧
    ([3, 3, 3] : Syms).length < 4 ∧ ([3, 2, 1, 0, 1] : Syms).length = 5 :=
  ⟨rfl, fits_some (by decide), not_fits_some (by decide), rfl, by decide, by decide⟩

theorem witness_BigEndianFields : 0 < 4 ∧ 3 < 4 ∧ 255 < 2 ^ (8 * 1) ∧ 0 < 2 ^ (8 * 0) := by decide

theorem witness_ParseHeaderFunction :
    (header plainMark 0).length = 12 ∧ (header plainMark 0).take 4 = [0xDE, 0xAD, 0xC0, 0xDE] ∧
      (header cryptMark 1).length = 12 ∧ (header cryptMark 1).take 4 = [0x13, 0x37, 0xC0, 0xDE] ∧
      (header [0xDE, 0xAD, 0xC0, 0xDF] 0).length = 12 ∧
      (header [0xDE, 0xAD, 0xC0, 0xDF] 0).take 4 ≠ [0xDE, 0xAD, 0xC0, 0xDE] ∧
      (header [0xDE, 0xAD, 0xC0, 0xDF] 0).take 4 ≠ [0x13, 0x37, 0xC0, 0xDE] := by
  decide

theorem witness_ParseOfBuiltFrame : ([0x41] : Bytes).length < 2 ^ 64 := by decide

/-- The last clause needs a payload of `2^64` bytes, which exists. -/
theorem witness_BuildFrameCommand :
    ((withBin 0 0 [0x41]).bin = .written [0x41] ∧ ([0x41] : Bytes).length < 2 ^ 64 ∧
      Fits (12 + ([0x41] : Bytes).length) (bounded 13).bufBytes ∧
      ¬Fits (12 + ([0x41] : Bytes).length) (bounded 12).bufBytes) ∧
    (∃ p : Bytes, (withBin 0 0 p).bin = .written p ∧ 2 ^ 64 ≤ p.length) ∧ (atRest 0 0).bin = .unwritten :=
  ⟨⟨rfl, by decide, fits_some (by decide), not_fits_some (by decide)⟩, exists_payload _, rfl⟩

theorem witness_ParseHeaderCommand :
    ((withBin 0 0 (header plainMark 0)).bin = .written (header plainMark 0) ∧ 12 ≤ (header plainMark 0).length ∧
      (header plainMark 0).take 4 = [0xDE, 0xAD, 0xC0, 0xDE]) ∧
    (12 ≤ (header cryptMark 0).length ∧ (header cryptMark 0).take 4 = [0x13, 0x37, 0xC0, 0xDE]) ∧
    (12 ≤ (header [0, 0, 0, 0] 0).length ∧ (header [0, 0, 0, 0] 0).take 4 ≠ [0xDE, 0xAD, 0xC0, 0xDE] ∧
      (header [0, 0, 0, 0] 0).take 4 ≠ [0x13, 0x37, 0xC0, 0xDE]) ∧
    ((withBin 0 0 []).bin = .written [] ∧ ([] : Bytes).length < 12) ∧ (atRest 0 0).bin = .unwritten := by
  decide

theorem witness_CapacityFunction : (header plainMark 0).length ≤ maxPayload 4 4 := by decide

theorem witness_MaxPayloadCommand :
    (let s := { atRest 0 0 with gw := .written 2, gh := .written 1 };
      s.gw = .written 2 ∧ s.gh = .written 1) ∧
    (atRest 0 0).gw = .unwritten ∧
    (let s := { atRest 0 0 with gw := .written 2 };
      s.gw = .written 2 ∧ s.gh = .unwritten) := by
  decide

theorem witness_CheckCapacityCommand :
    (let s := { withBin 0 0 [0x41] with gw := .written 2, gh := .written 1 };
      s.bin = .written [0x41] ∧ s.gw = .written 2 ∧ s.gh = .written 1 ∧ ([0x41] : Bytes).length ≤ 2 * 1 * 6 / 8) ∧
    (let s := { withBin 0 0 [0x41] with gw := .written 1, gh := .written 1 };
      s.bin = .written [0x41] ∧ s.gw = .written 1 ∧ s.gh = .written 1 ∧ 1 * 1 * 6 / 8 < ([0x41] : Bytes).length) ∧
    (atRest 0 0).bin = .unwritten ∧ ((withBin 0 0 []).bin = .written [] ∧ (withBin 0 0 []).gw = .unwritten) ∧
    (let s := { withBin 0 0 [] with gw := .written 2 };
      s.bin = .written [] ∧ s.gw = .written 2 ∧ s.gh = .unwritten) ∧
    (let s := { withBin 0 0 [] with gw := .written 0, gh := .written 0 };
      s.bin = .written [] ∧ s.gw = .written 0 ∧ s.gh = .written 0) := by
  decide

theorem witness_EmbedGate :
    (let s := running (withBin 2 1 [0xFF]) .embed .embGate;
      s.hid.phase = .embGate ∧ s.bin = .written [0xFF] ∧ s.grid.fails = false ∧
        ([0xFF] : Bytes).length ≤ s.grid.w * s.grid.h * 6 / 8) ∧
    (let s := running (withBin 1 1 [0xFF]) .embed .embGate;
      s.hid.phase = .embGate ∧ s.bin = .written [0xFF] ∧ s.grid.fails = false ∧
        s.grid.w * s.grid.h * 6 / 8 < ([0xFF] : Bytes).length) := by
  decide

/-- EMBED of `FF` in a 2 x 1 grid, its first `n` pixels written (L2.6). -/
def embedding (n : Nat) : State :=
  let s := running (withBin 2 1 [0xFF]) .embed .embWrite
  { s with
    hid :=
      { s.hid with
        stream := [3, 3, 3, 3, 0, 0]
        k := 3 * n
        geom := (2, 1) }
    grid := { s.grid with mem := [(0, 3), (1, 3), (2, 3), (3, 3)].take (if n = 0 then 0 else n + 2) } }

/-- Before the last pixel of the grid, and at the end of the stream. -/
theorem witness_EmbedWriteStep :
    (let s := embedding 2;
      s.hid.phase = .embWrite ∧ s.grid.fails = false ∧ s.hid.geom = (s.grid.w, s.grid.h) ∧
        s.hid.k = s.hid.stream.length) ∧
    (let s := embedding 1;
      s.hid.phase = .embWrite ∧ s.grid.fails = false ∧ s.hid.geom = (s.grid.w, s.grid.h) ∧
        s.hid.k ≠ s.hid.stream.length ∧ s.hid.k / 3 < s.grid.w * s.grid.h ∧ Grid.wf s.grid) := by
  decide

theorem witness_EmbedFrame :
    (∃ t, exec .embed (embedding 1) = .next t) ∧ (∃ t, exec .embed (embedding 2) = .next t) ∧
      (embedding 2).hid.k = (embedding 2).hid.stream.length ∧
      (∃ t, exec .embed (running (withBin 2 1 [0xFF]) .embed .embGate) = .next t) :=
  ⟨⟨_, rfl⟩, ⟨_, rfl⟩, by decide, ⟨_, rfl⟩⟩

theorem witness_EmbedStepFormAgreesWithWhole :
    (let s := (withBin 1 1 [0xFF]).withScript [.setCmd 0x00000007];
      s.busy = false ∧ s.host.script = [.setCmd 0x00000007] ∧ s.grid.fails = false ∧ s.bin = .written [0xFF] ∧
        s.grid.w * s.grid.h * 6 / 8 < ([0xFF] : Bytes).length) ∧
    (let s := (withBin 2 1 [0xFF]).withScript [.setCmd 0x00000007];
      s.busy = false ∧ s.host.script = [.setCmd 0x00000007] ∧ s.grid.fails = false ∧ s.bin = .written [0xFF] ∧
        ([0xFF] : Bytes).length ≤ s.grid.w * s.grid.h * 6 / 8 ∧ 1 ≤ 3 ∧ 3 < 1 + (pack [0xFF] 3).length / 3 + 1) := by
  decide

theorem witness_EmbedBitIsolation :
    let s := (withBin 2 1 [0xFF]).withScript [.setCmd 0x00000007]
    s.busy = false ∧ s.host.script = [.setCmd 0x00000007] ∧ s.grid.fails = false ∧ Grid.wf s.grid ∧
      s.bin = .written [0xFF] ∧ ([0xFF] : Bytes).length ≤ s.grid.w * s.grid.h * 6 / 8 ∧ 5 < (pack [0xFF] 3).length ∧
      (pack [0xFF] 3).length ≤ 6 := by
  decide

/-- EXTRACT in a phase of its scan of a 4 x 5 grid of channels at 0, at symbol `k`. -/
def scanning (p : Phase) (k : Nat) : State :=
  let s := running (atRest 4 5) .extract p
  { s with hid :=
    { s.hid with
      k := k
      acc := List.replicate k 0
      needed := 52
      geom := (4, 5) } }

theorem witness_ExtractScanSteps :
    (let s := running (atRest 3 5) .extract .extSize;
      s.grid.fails = false ∧ s.hid.phase = .extSize ∧ 3 * (s.grid.w * s.grid.h) < 48) ∧
    (let s := running (atRest 4 4) .extract .extSize;
      s.grid.fails = false ∧ s.hid.phase = .extSize ∧ 48 ≤ 3 * (s.grid.w * s.grid.h)) ∧
    (let s := scanning .extPay 52;
      s.grid.fails = false ∧ s.hid.phase = .extPay ∧ s.hid.k = s.hid.needed) ∧
    (let s := scanning .extHdr 47;
      s.grid.fails = false ∧ s.hid.geom = (s.grid.w, s.grid.h) ∧ s.hid.k < 3 * (s.grid.w * s.grid.h) ∧
        s.hid.k % 3 ≠ 0 ∧ s.hid.phase = .extHdr) ∧
    (let s := scanning .extHdr 0;
      s.hid.geom = (s.grid.w, s.grid.h) ∧ s.hid.k < 3 * (s.grid.w * s.grid.h) ∧ s.hid.k % 3 = 0 ∧
        s.hid.phase = .extHdr) ∧
    (let s := scanning .extPay 51;
      s.hid.geom = (s.grid.w, s.grid.h) ∧ s.hid.k < 3 * (s.grid.w * s.grid.h) ∧ s.hid.k % 3 = 0 ∧
        s.hid.phase = .extPay ∧ s.hid.k ≠ s.hid.needed) := by
  decide

/-- EXTRACT after the header of an UNENCRYPTED frame with an empty payload: the 48 symbols of L1.7 and L2.3. -/
def afterHeader : State :=
  { scanning .extParse 48 with hid :=
    { (scanning .extParse 48).hid with
      acc := [3, 1, 3, 2, 2, 2, 3, 1, 3, 0, 0, 0, 3, 1, 3, 2] ++ List.replicate 32 0 } }

theorem witness_ExtractParseAndCheck :
    ((scanning .extParse 48).hid.phase = .extParse ∧ parseHeader (unpack (scanning .extParse 48).hid.acc) = none) ∧
    (afterHeader.hid.phase = .extParse ∧ parseHeader (unpack afterHeader.hid.acc) = some (.unencrypted, 0)) ∧
    (let s := scanning .extCheck 48;
      s.hid.phase = .extCheck ∧ s.hid.needed ≤ 3 * (s.hid.geom.1 * s.hid.geom.2)) ∧
    (let s := { scanning .extCheck 48 with hid := { (scanning .extCheck 48).hid with geom := (4, 4) } };
      s.hid.phase = .extCheck ∧ 3 * (s.hid.geom.1 * s.hid.geom.2) < s.hid.needed) := by
  decide

theorem witness_ExtractDecodeStep :
    let s := scanning .extDec 52
    let u := { s with hid := { s.hid with hk := .encrypted }, pwd := .written [0x70] }
    (s.hid.phase = .extDec ∧ unpack ((s.hid.acc.drop 48).take (s.hid.needed - 48)) = [0] ∧
      s.hid.hk = .unencrypted) ∧
    Fits ([0] : Bytes).length (bounded 1).bufBytes ∧ ¬Fits ([0] : Bytes).length (bounded 0).bufBytes ∧
    (u.hid.phase = .extDec ∧ u.hid.hk = .encrypted ∧ u.pwd = .written [0x70]) :=
  ⟨by decide, fits_some (by decide), not_fits_some (by decide), by decide⟩

theorem witness_ExtractStepFormAgreesWithWhole :
    (let s := (atRest 4 4).withScript [.setCmd 0x00000018];
      s.busy = false ∧ s.host.script = [.setCmd (if true then 0x00000018 else 0x00000008)] ∧ s.grid.fails = false) ∧
    (let s := (atRest 3 5).withScript [.setCmd 0x00000008];
      s.busy = false ∧ s.host.script = [.setCmd (if false then 0x00000018 else 0x00000008)] ∧ s.grid.fails = false) := by
  decide

theorem witness_RescanEquivalence :
    let s := (atRest 4 4).withScript [.setCmd 0x00000008]
    s.busy = false ∧ s.host.script = [.setCmd (if false then 0x00000018 else 0x00000008)] ∧ s.grid.fails = false := by
  decide

theorem witness_OnlyEmbedWritesTheGrid :
    (∃ t, exec .extract (atRest 4 4) = .next t) ∧ Instr.extract ≠ .embed := ⟨⟨_, rfl⟩, by decide⟩

/-- The empty payload fits a 4 x 4 grid exactly. -/
theorem witness_HideRevealRoundTrip :
    let s := (atRest 4 4).withScript (.setBin [] :: (hideU ++ reveal))
    (s.busy = false ∧ s.grid.fails = false ∧ Grid.wf s.grid ∧ 12 + ([] : Bytes).length ≤ maxPayload s.grid.w s.grid.h ∧
      ([] : Bytes).length < 2 ^ 64 ∧ s.host.script = .setBin [] :: (hideU ++ reveal)) ∧
    Fits (12 + ([] : Bytes).length) s.cfg.bufBytes ∧ Fits (12 + ([] : Bytes).length) (bounded 12).bufBytes :=
  ⟨by decide, fits_none _, fits_some (by decide)⟩

/-- The empty ciphertext in a 4 x 4 grid, and whatever `encrypt` makes of `b` in a grid that is large enough. -/
theorem witness_EncryptedHideRevealRoundTrip :
    (let prog := commandLine .buildFrameE ++ [.stopIfErr, .copyBinBout] ++ commandLine .embed ++ revealKey [0x70];
      let s := (atRest 4 4).withScript (.setBin [] :: prog);
      (s.busy = false ∧ s.grid.fails = false ∧ Grid.wf s.grid ∧
        12 + ([] : Bytes).length ≤ maxPayload s.grid.w s.grid.h ∧ ([] : Bytes).length < 2 ^ 64 ∧
        s.host.script = .setBin [] :: prog) ∧
      Fits (12 + ([] : Bytes).length) s.cfg.bufBytes) ∧
    (∀ b pwd : Bytes,
      let c := Config.encrypt b pwd;
      let s := (atRest (4 * (12 + c.length)) 1).withScript (.setBin b :: (hideE pwd ++ revealKey pwd));
      s.busy = false ∧ s.grid.fails = false ∧ Grid.wf s.grid ∧ 12 + c.length ≤ maxPayload s.grid.w s.grid.h ∧
        Fits (12 + c.length) s.cfg.bufBytes ∧ Fits b.length s.cfg.bufBytes ∧
        s.host.script = .setBin b :: (hideE pwd ++ revealKey pwd)) := by
  refine ⟨⟨by decide, fits_none _⟩, fun b pwd => ⟨busy_reset, rfl, ⟨Memory.wf_nil, ?_⟩, ?_, fits_none _, fits_none _, rfl⟩⟩
  · simp [atRest, State.withScript]
  · simp only [atRest, State.withScript, maxPayload]
    omega

/-- A running EMBED meets the invariant between its two pixels. -/
theorem inv_embedding : Inv (embedding 1) where
  status := .inr (.inl rfl)
  idle := by decide
  grid := by decide
  command := (by decide : decode _ = .ok .embed)
  embed := fun _ =>
    { geometry := by decide
      gate := ⟨[0xFF], by decide, by decide, by decide⟩
      cursor := ⟨1, by decide, by decide, by decide⟩
      before := by decide }
  geometry := by decide
  extract := trivial

theorem witness_StepKeepsInvariant : ∃ t, Inv (embedding 1) ∧ step (embedding 1) = .next t := ⟨_, inv_embedding, rfl⟩

/-- MAX_PAYLOAD without operands, and a running EMBED without a frame. -/
theorem witness_CoreStaysInsideTheGrid :
    (let s := (atRest 4 4).withScript [.setCmd 0x00000005];
      Inv s ∧ s.grid.fails = false ∧ s.host.script = .setCmd 0x00000005 :: [] ∧
        faultOf (step s) = some (.unwrittenOperand .gw)) ∧
    (let s := running (atRest 4 4) .embed .embGate;
      Inv s ∧ s.grid.fails = false ∧ s.host.script = [] ∧ faultOf (step s) = some (.unwrittenOperand .bin)) := by
  refine ⟨⟨inv_of_idle (.inl rfl) rfl rfl (by decide), by decide⟩, ?_, by decide⟩
  exact
    { status := .inr (.inl rfl)
      idle := by decide
      grid := by decide
      command := (by decide : decode _ = .ok .embed)
      embed := fun h => absurd h (by decide)
      geometry := by decide
      extract := trivial }

theorem witness_ErrorsLeaveTheGrid :
    let s := (withBin 1 1 [0xFF]).withScript [.setCmd 0x00000007]
    s.busy = false ∧ s.host.script = [.setCmd 0x00000007] ∧ 1 ≤ 1 ∧
      ∃ t : State, Host.Core.run core 1 s = .next t ∧ t.busy = false ∧ t.err ≠ 0 :=
  ⟨rfl, rfl, by decide, _, rfl, by decide, by decide⟩

theorem witness_EveryCommandEnds :
    (let s := (atRest 4 4).withScript [.setCmd 9];
      s.busy = false ∧ s.host.script = [.setCmd 9] ∧ s.grid.fails = false ∧ decode 9 ≠ .ok .embed ∧
        decode 9 ≠ .ok .extract ∧ decode 9 ≠ .ok .extractKey) ∧
    (let s := (withBin 2 1 [0xFF]).withScript [.setCmd 7];
      s.busy = false ∧ s.host.script = [.setCmd 7] ∧ s.grid.fails = false ∧ decode 7 = .ok .embed ∧
        s.bin = .written [0xFF]) ∧
    (let s := (atRest 4 4).withScript [.setCmd 0x18];
      s.busy = false ∧ s.host.script = [.setCmd 0x18] ∧ s.grid.fails = false ∧ decode 0x18 = .ok .extractKey) := by
  decide

theorem witness_LeftoverHiddenStateIsNeverRead :
    (atRest 4 4).busy = false ∧ { Hidden.reset with k := 5 } ≠ (atRest 4 4).hid := by decide

theorem witness_ParametersNeverChange : ∃ t, step ((atRest 4 4).withScript [.setGw 3]) = .next t := ⟨_, rfl⟩

theorem witness_ResetEvent :
    (let s := (withBin 4 4 [1]).withScript [.reset];
      s.host.script = .reset :: [] ∧ ¬(s.busy = true ∧ s.hid.phase = .embWrite)) ∧
    (let s := (embedding 1).withScript [.reset];
      s.host.script = .reset :: [] ∧ s.busy = true ∧ s.hid.phase = .embWrite ∧ Memory.wf s.hid.memBefore) := by
  decide

theorem witness_ExclusiveAccess :
    (let s := (embedding 1).withScript [.gridGet 0 0];
      s.busy = true ∧ s.hid.phase = .embWrite ∧ s.host.script = .gridGet 0 0 :: []) ∧
    (let s := (running (atRest 4 4) .embed .embGate).withScript [.gridSet 0 0 ⟨1, 2, 3⟩];
      s.busy = true ∧ s.hid.phase = .embGate ∧ s.host.script = .gridSet 0 0 ⟨1, 2, 3⟩ :: []) ∧
    (let s := (running (atRest 4 4) .extract .extSize).withScript [.gridSet 0 0 ⟨1, 2, 3⟩];
      s.busy = true ∧ s.hid.phase = .extSize ∧ s.host.script = .gridSet 0 0 ⟨1, 2, 3⟩ :: []) ∧
    (let s := (scanning .extDec 52).withScript [.gridGet 3 4];
      s.busy = true ∧ s.hid.phase.scanning = true ∧ s.host.script = .gridGet 3 4 :: [] ∧ s.grid.fails = false ∧
        3 < s.grid.w ∧ 4 < s.grid.h) := by
  decide

theorem witness_PixelSetThenGet :
    ∃ g', Grid.wf (atRest 2 1).grid ∧ (atRest 2 1).grid.set 1 0 ⟨0, 2, 3⟩ = .ok g' ∧ (0, 0) ≠ ((1, 0) : Nat × Nat) :=
  ⟨_, by decide, rfl, by decide⟩

theorem witness_GridSetup :
    (let s := (atRest 4 4).withScript [.gridSetup 1 1 [⟨1, 0, 3⟩]];
      s.host.script = .gridSetup 1 1 [⟨1, 0, 3⟩] :: [] ∧ [(⟨1, 0, 3⟩ : Pixel)].length = 1 * 1 ∧ s.embedding = false ∧
        s.extracting = false ∧ s.grid.fails = false ∧ 0 < 1) ∧
    (let s := (embedding 1).withScript [.gridSetup 2 1 [⟨1, 0, 3⟩, ⟨0, 0, 0⟩]];
      s.host.script = .gridSetup 2 1 [⟨1, 0, 3⟩, ⟨0, 0, 0⟩] :: [] ∧ s.embedding = true ∧ 2 = s.grid.w ∧ 1 = s.grid.h) ∧
    (let s := (scanning .extPay 51).withScript [.gridSetup 0 0 []];
      s.host.script = .gridSetup 0 0 [] :: [] ∧ s.extracting = true ∧ ¬(0 = s.grid.w ∧ 0 = s.grid.h)) := by
  decide

theorem witness_CollaboratorFailureFaults :
    (let s := { running (withBin 4 4 []) .embed .embGate with grid := { w := 4, h := 4, mem := [], fails := true } };
      s.grid.fails = true ∧ s.hid.phase = .embGate ∧ s.bin = .written []) ∧
    (let s := { embedding 1 with grid := { (embedding 1).grid with fails := true } };
      s.grid.fails = true ∧ s.hid.phase = .embWrite ∧ s.hid.k ≠ s.hid.stream.length) ∧
    (let s := { scanning .extSize 0 with grid := { (scanning .extSize 0).grid with fails := true } };
      s.grid.fails = true ∧ s.hid.phase = .extSize) ∧
    (let s := { scanning .extHdr 0 with grid := { (scanning .extHdr 0).grid with fails := true } };
      s.grid.fails = true ∧ s.hid.phase = .extHdr ∧ s.hid.k % 3 = 0) ∧
    (let s := { scanning .extPay 51 with grid := { (scanning .extPay 51).grid with fails := true } };
      s.grid.fails = true ∧ s.hid.phase = .extPay ∧ s.hid.k ≠ s.hid.needed ∧ s.hid.k % 3 = 0) := by
  decide

theorem witness_OperandWrites :
    (let s := (embedding 1).withScript [.setBin [1]];
      s.host.script = .setBin [1] :: [] ∧ s.busy = true) ∧
    (let s := { (atRest 0 0).withScript [.setGw 7] with cfg := bounded 3 };
      s.host.script = .setGw 7 :: [] ∧ s.busy = false ∧ s.cfg.dimBits = some 3 ∧ 7 < 2 ^ 3) ∧
    ((atRest 0 0).withScript [.setGh 0]).host.script = .setGh 0 :: [] ∧
    ((atRest 0 0).withScript [.setPwd []]).host.script = .setPwd [] :: [] ∧
    ((atRest 0 0).withScript [.setSin [3]]).host.script = .setSin [3] :: [] ∧
    Fits ([1] : Bytes).length (bounded 1).bufBytes ∧ Fits ([3] : Syms).length (bounded 1).bufSyms :=
  ⟨by decide, by decide, rfl, rfl, rfl, fits_some (by decide), fits_some (by decide)⟩

theorem witness_HostReads :
    ((atRest 0 0).withScript [.get .cmd]).host.script = .get .cmd :: [] ∧
    ((embedding 1).withScript [.get .status]).host.script = .get .status :: [] ∧
    (let s := (embedding 1).withScript [.get .bin];
      s.host.script = .get .bin :: [] ∧ s.bin = .written [0xFF]) ∧
    (let s := { (atRest 0 0).withScript [.get .plen] with plen := .written 0xFFFFFFFFFFFFFFFF };
      s.host.script = .get .plen :: [] ∧ s.busy = false ∧ s.plen = .written 0xFFFFFFFFFFFFFFFF) := by
  decide

theorem witness_ResultReadWhileBusy :
    ((embedding 1).withScript [.get .cap]).busy = true ∧
      ((embedding 1).withScript [.get .cap]).host.script = .get .cap :: [] ∧
      ((embedding 1).withScript [.get .sout]).host.script = .get .sout :: [] := by
  decide

theorem witness_UnwrittenRegisterRead :
    (let s := { (atRest 0 0).withScript [.get .gw] with cfg := bounded 0 };
      s.host.script = .get .gw :: [] ∧ s.gw = .unwritten ∧ s.cfg.dimBits = some 0) ∧
    (let s := (running (atRest 4 4) .extract .extSize).withScript [.get .sout];
      s.host.script = .get .sout :: [] ∧ s.sout = .unwritten) ∧
    (let s := (atRest 0 0).withScript [.copyBinBout];
      s.host.script = .copyBinBout :: [] ∧ s.busy = false ∧ s.bout = .unwritten) ∧
    (∀ pwd b : Bytes,
      let s := (atRest 0 0).withScript [.encryptToBin .bin pwd];
      s.host.script = .encryptToBin .bin pwd :: [] ∧ s.busy = false ∧ s.bin = .unwritten ∧
        Fits (Config.encrypt b pwd).length s.cfg.bufBytes) :=
  ⟨by decide, by decide, by decide, fun _ _ => ⟨rfl, busy_reset, rfl, fits_none _⟩⟩

theorem witness_ScriptActions :
    (let s := { (atRest 0 0).withScript [.wait] with status := 0x02 };
      s.host.script = .wait :: [] ∧ s.done = true) ∧
    (let s := { (atRest 0 0).withScript [.stopIfErr] with status := 0x12 };
      s.host.script = .stopIfErr :: [] ∧ s.err ≠ 0) ∧
    (let s := { (atRest 0 0).withScript [.stopIfErr] with status := 0x02 };
      s.host.script = .stopIfErr :: [] ∧ s.err = 0) ∧
    (let s := { (atRest 0 0).withScript [.copyBinBout] with bout := .written [1] };
      (s.host.script = .copyBinBout :: [] ∧ s.busy = false ∧ s.bout = .written [1]) ∧
        Fits ([1] : Bytes).length s.cfg.bufBytes) ∧
    (∀ pwd : Bytes,
      let s := (withBin 0 0 [1]).withScript [.encryptToBin .bin pwd];
      s.host.script = .encryptToBin .bin pwd :: [] ∧ s.busy = false ∧ s.bin = .written [1] ∧
        Fits (Config.encrypt [1] pwd).length s.cfg.bufBytes) :=
  ⟨by decide, by decide, by decide, ⟨by decide, fits_none _⟩, fun _ => ⟨rfl, busy_reset, rfl, fits_none _⟩⟩

end Sys2Proof.Tests
end

/-! ## What a step can do, and that no step changes the parameters (00_scope.md R7)

First one lemma per action of the host and of the other agents: every next state it can answer, beside the lemmas for the
meanings in Laws/Exec.lean. Then the parameters: commands keep them, the core's turn and every action keep them. -/

section
namespace Sys2Proof.Machine

/-! ### Commands: the branches of a command's dispatch -/

theorem failExtract_next {e : CmdError} {s t : State} :
    failExtract e s = .next t ↔ t = s.drawKind.drawPlen.drawBout.complete (some e) := by
  simp [failExtract, eq_comm]

theorem execEmbed_next {s t : State} (h : execEmbed s = .next t) :
    embGateStep s = .next t ∨ embWriteStep s = .next t := by
  unfold execEmbed at h
  split at h
  · exact .inr h
  all_goals exact .inl h

theorem extractStep_next {key : Bool} {s t : State} (h : extractStep key s = .next t) :
    extSizeStep s = .next t ∨ extHdrStep s = .next t ∨ extParseStep s = .next t ∨ extCheckStep s = .next t ∨
      extPayStep s = .next t ∨ extDecStep key s = .next t := by
  unfold extractStep at h
  split at h <;> simp only [h, true_or, or_true]

/-! ### The core's turn and the host's writes -/

theorem issue_next {w : Word} {s t : State} (h : issue w s = .next t) :
    t = (s.accept w .idle).complete (some .illegalCommand) ∨
      ∃ i, decode w = .ok i ∧ exec i (s.accept w (startPhase i)) = .next t := by
  unfold issue at h
  split at h
  · cases h; exact .inl rfl
  · next i hi => exact .inr ⟨i, hi, h⟩

theorem hostSetCmd_next {w : Word} {s t : State} (h : hostSetCmd w s = .next t) :
    (s.busy = true ∧ t = s) ∨ (s.busy = false ∧ issue w s = .next t) := by
  unfold hostSetCmd at h
  split at h
  · next hb => cases h; exact .inl ⟨hb, rfl⟩
  · next hb => exact .inr ⟨by simpa using hb, h⟩

theorem coreTurn_next {s t : State} (h : coreTurn s = .next t) :
    (s.busy = false ∧ t = s) ∨ (s.busy = true ∧
      (t = s.complete (some .illegalCommand) ∨ ∃ i, decode s.hid.opw = .ok i ∧ exec i s = .next t)) := by
  unfold coreTurn at h
  split at h
  · next hb =>
    refine .inr ⟨hb, ?_⟩
    split at h
    · cases h; exact .inl rfl
    · next i hi => exact .inr ⟨i, hi, h⟩
  · next hb => cases h; exact .inl ⟨by simpa using hb, rfl⟩

theorem waitDone_next {rest : List Action} {s t : State} (h : waitDone rest s = .next t) :
    (s.done = true ∧ t = s.withScript rest) ∨ (s.done = false ∧ coreTurn s = .next t) := by
  unfold waitDone at h
  split at h
  · next hd => cases h; exact .inl ⟨hd, rfl⟩
  · next hd => exact .inr ⟨by simpa using hd, h⟩

theorem stopIfErr_next {s t : State} (h : stopIfErr s = .next t) :
    (s.err ≠ 0 ∧ t = s.withScript []) ∨ (s.err = 0 ∧ t = s) := by
  unfold stopIfErr at h
  split at h
  · next he => cases h; exact .inl ⟨he, rfl⟩
  · next he => cases h; exact .inr ⟨by simpa using he, rfl⟩

theorem hostWrite_next {s t u : State} {r : RegName} {inDomain : Bool} :
    hostWrite s r inDomain t = .next u ↔
      (s.busy = true ∧ u = s) ∨ (s.busy = false ∧ inDomain = true ∧ u = t) := by
  unfold hostWrite
  cases s.busy <;> cases inDomain <;> simp [eq_comm]

theorem hostSetBin_next {s t : State} {b : Bytes} :
    hostSetBin s b = .next t ↔
      (s.busy = true ∧ t = s) ∨
        (s.busy = false ∧ withinBound b.length s.cfg.bufBytes = true ∧ t = { s with bin := .written b }) :=
  hostWrite_next

/-- `COPY BIN <- BOUT` reads BOUT and then, where the value read is bytes, writes it to BIN. -/
theorem copyBinBout_next {s t : State} (h : copyBinBout s = .next t) :
    t = (hostRead s .bout).2 ∨ ∃ b, hostSetBin (hostRead s .bout).2 b = .next t := by
  unfold copyBinBout at h
  split at h
  · next b u hr => exact .inr ⟨b, by rw [hr]; exact h⟩
  · next hr => cases h; exact .inl (by rw [hr])

/-- `ENCRYPT` writes BIN, after reading BIN where that is its source. -/
theorem encryptToBin_next {source : EncryptSource} {pwd : Bytes} {s t : State}
    (h : encryptToBin source pwd s = .next t) :
    (∃ b, hostSetBin s b = .next t) ∨ t = (hostValue s .bin).2 ∨
      ∃ b, hostSetBin (hostValue s .bin).2 b = .next t := by
  unfold encryptToBin at h
  split at h
  · exact .inl ⟨_, h⟩
  · split at h
    · next b u hv => exact .inr (.inr ⟨_, by rw [hv]; exact h⟩)
    · next hv => cases h; exact .inr (.inl (by rw [hv]))

/-! ### The grid's other users -/

theorem otherGet_next {x y : Nat} {s t : State} (h : otherGet x y s = .next t) :
    ∃ p, s.grid.get x y = .ok p ∧ t = { s with host := { s.host with lastRead := some (.pixel p) } } := by
  unfold otherGet at h
  split at h
  · cases h
  · split at h
    · next p hp => cases h; exact ⟨p, hp, rfl⟩
    · cases h

theorem otherSet_next {x y : Nat} {p : Pixel} {s t : State} (h : otherSet x y p s = .next t) :
    ∃ g, s.grid.set x y p = .ok g ∧ t = { s with grid := g } := by
  unfold otherSet at h
  split at h
  · cases h
  · split at h
    · next g hg => cases h; exact ⟨g, hg, rfl⟩
    · cases h

theorem gridSetup_next {w h : Nat} {pixels : List Pixel} {s t : State} (hn : gridSetup w h pixels s = .next t) :
    pixels.length = w * h ∧
      t = { s with grid := { s.grid with w := w, h := h, mem := Memory.ofPixels 0 pixels } } := by
  unfold gridSetup at hn
  split at hn
  · split at hn <;> cases hn
  · split at hn
    · next hl => cases hn; exact ⟨hl, rfl⟩
    · cases hn

end Sys2Proof.Machine
end

section
namespace Sys2Proof.Machine

/-! ### Commands keep the parameters -/

theorem failExtract_keeps_cfg {e : CmdError} {s t : State} (h : failExtract e s = .next t) : t.cfg = s.cfg := by
  rw [failExtract_next.mp h]; rfl

theorem finishWithBout_keeps_cfg {s t : State} {b : Bytes} (h : finishWithBout s b = .next t) : t.cfg = s.cfg := by
  rw [(finishWithBout_next.mp h).2]; rfl

theorem buildFrameCommand_keeps_cfg {k : Kind} {s t : State} (h : buildFrameCommand k s = .next t) :
    t.cfg = s.cfg := by
  obtain ⟨_, -, rfl | rfl⟩ := buildFrameCommand_next h <;> rfl

theorem execEmbed_keeps_cfg {s t : State} (h : execEmbed s = .next t) : t.cfg = s.cfg := by
  obtain hg | hw := execEmbed_next h
  · obtain ⟨_, -, -, ⟨-, rfl⟩ | ⟨-, rfl⟩⟩ := embGateStep_next hg <;> rfl
  · obtain ⟨-, rfl⟩ | ⟨-, _, -, rfl⟩ := embWriteStep_next hw <;> rfl

theorem extractStep_keeps_cfg {key : Bool} {s t : State} (h : extractStep key s = .next t) : t.cfg = s.cfg := by
  obtain hs | hh | hp | hc | hy | hd := extractStep_next h
  · obtain ⟨-, ⟨-, hf⟩ | ⟨-, rfl⟩⟩ := extSizeStep_next hs
    · exact (failExtract_keeps_cfg hf).trans rfl
    · rfl
  · obtain ⟨p, rfl⟩ := extHdrStep_next hh
    split <;> rfl
  · obtain ⟨-, hf⟩ | ⟨k, len, -, rfl⟩ := extParseStep_next hp
    · exact failExtract_keeps_cfg hf
    · rfl
  · obtain ⟨-, hf⟩ | ⟨-, ⟨-, rfl⟩ | ⟨-, rfl⟩⟩ := extCheckStep_next hc
    · exact failExtract_keeps_cfg hf
    · rfl
    · rfl
  · obtain ⟨-, rfl⟩ | ⟨-, p, rfl⟩ := extPayStep_next hy <;> rfl
  · obtain hf | ⟨b, hb⟩ := extDecStep_next hd
    · exact failExtract_keeps_cfg hf
    · exact finishWithBout_keeps_cfg hb

theorem exec_keeps_cfg {i : Instr} {s t : State} (h : exec i s = .next t) : t.cfg = s.cfg := by
  cases i with
  | nop => cases h; rfl
  | pack align => obtain ⟨-, rfl⟩ | ⟨_, -, rfl⟩ := execPack_next h <;> rfl
  | unpack => obtain ⟨_, -, rfl⟩ := execUnpack_next h; rfl
  | buildFrameU => exact buildFrameCommand_keeps_cfg (k := .unencrypted) h
  | buildFrameE => exact buildFrameCommand_keeps_cfg (k := .encrypted) h
  | parseHeader => obtain ⟨_, -, ⟨_, rfl⟩ | ⟨_, _, rfl⟩⟩ := execParseHeader_next h <;> rfl
  | maxPayload => obtain ⟨_, _, -, -, rfl⟩ := execMaxPayload_next h; rfl
  | checkCapacity => obtain rfl | rfl := execCheckCapacity_next h <;> rfl
  | embed => exact execEmbed_keeps_cfg h
  | extract => exact extractStep_keeps_cfg (key := false) h
  | extractKey => exact extractStep_keeps_cfg (key := true) h

/-! ### Actions keep the parameters -/

theorem hostSetCmd_keeps_cfg {w : Word} {s t : State} (h : hostSetCmd w s = .next t) : t.cfg = s.cfg := by
  obtain ⟨-, rfl⟩ | ⟨-, hi⟩ := hostSetCmd_next h
  · rfl
  · obtain rfl | ⟨i, -, he⟩ := issue_next hi
    · rfl
    · exact (exec_keeps_cfg he).trans (State.accept_cfg s w (startPhase i))

theorem coreTurn_keeps_cfg {s t : State} (h : coreTurn s = .next t) : t.cfg = s.cfg := by
  obtain ⟨-, rfl⟩ | ⟨-, rfl | ⟨i, -, he⟩⟩ := coreTurn_next h
  · rfl
  · rfl
  · exact exec_keeps_cfg he

theorem waitDone_keeps_cfg {rest : List Action} {s t : State} (h : waitDone rest s = .next t) : t.cfg = s.cfg := by
  obtain ⟨-, rfl⟩ | ⟨-, hc⟩ := waitDone_next h
  · rfl
  · exact coreTurn_keeps_cfg hc

/-- A host write keeps the parameters when the written state has them. -/
theorem hostWrite_keeps_cfg {s t u : State} {r : RegName} {inDomain : Bool}
    (h : hostWrite s r inDomain t = .next u) (ht : t.cfg = s.cfg) : u.cfg = s.cfg := by
  obtain ⟨-, rfl⟩ | ⟨-, -, rfl⟩ := hostWrite_next.mp h
  · rfl
  · exact ht

theorem hostSetBin_keeps_cfg {s t : State} {b : Bytes} (h : hostSetBin s b = .next t) : t.cfg = s.cfg :=
  hostWrite_keeps_cfg h rfl

@[simp] theorem hostValue_cfg (s : State) (r : ReadReg) : (hostValue s r).2.cfg = s.cfg := by
  obtain ⟨_, -, -, h⟩ | ⟨-, h⟩ := hostValue_cases s r <;> rw [h]

@[simp] theorem hostRead_cfg (s : State) (r : ReadReg) : (hostRead s r).2.cfg = s.cfg := by
  obtain ⟨_, _, h⟩ := hostRead_frame s r
  rw [h]

theorem copyBinBout_keeps_cfg {s t : State} (h : copyBinBout s = .next t) : t.cfg = s.cfg := by
  obtain rfl | ⟨b, hb⟩ := copyBinBout_next h
  · exact hostRead_cfg s .bout
  · exact (hostSetBin_keeps_cfg hb).trans (hostRead_cfg s .bout)

theorem encryptToBin_keeps_cfg {source : EncryptSource} {pwd : Bytes} {s t : State}
    (h : encryptToBin source pwd s = .next t) : t.cfg = s.cfg := by
  obtain ⟨b, hb⟩ | rfl | ⟨b, hb⟩ := encryptToBin_next h
  · exact hostSetBin_keeps_cfg hb
  · exact hostValue_cfg s .bin
  · exact (hostSetBin_keeps_cfg hb).trans (hostValue_cfg s .bin)

@[simp] theorem State.doReset_cfg (s : State) : s.doReset.cfg = s.cfg := rfl

theorem act_keeps_cfg {a : Action} {rest : List Action} {s t : State} (h : act a rest s = .next t) :
    t.cfg = s.cfg := by
  cases a with
  | setCmd w => exact hostSetCmd_keeps_cfg (s := s.withScript rest) h
  | setGw n | setGh n | setPwd p | setBin b | setSin y => exact hostWrite_keeps_cfg (s := s.withScript rest) h rfl
  | get r => cases h; exact hostRead_cfg (s.withScript rest) r
  | wait => exact waitDone_keeps_cfg h
  | copyBinBout => exact copyBinBout_keeps_cfg (s := s.withScript rest) h
  | stopIfErr => obtain ⟨-, rfl⟩ | ⟨-, rfl⟩ := stopIfErr_next (s := s.withScript rest) h <;> rfl
  | gridSetup w hh pixels => obtain ⟨-, rfl⟩ := gridSetup_next h; rfl
  | encryptToBin source pwd => exact encryptToBin_keeps_cfg (s := s.withScript rest) h
  | gridGet x y => obtain ⟨_, -, rfl⟩ := otherGet_next h; rfl
  | gridSet x y p => obtain ⟨_, -, rfl⟩ := otherSet_next h; rfl
  | gridFailing fails => cases h; rfl
  | reset => cases h; rfl
  | coreTurn => exact coreTurn_keeps_cfg (s := s.withScript rest) h

theorem step_keeps_cfg {s t : State} (h : step s = .next t) : t.cfg = s.cfg := by
  unfold step stepOf at h
  split at h
  · exact coreTurn_keeps_cfg h
  · exact act_keeps_cfg h

/-- Settles O48: a step is the core's turn or an action, and both keep the parameters, by cases of the command and of the
action. -/
theorem parametersNeverChange : Obligations.ParametersNeverChange :=
  fun _ _ => step_keeps_cfg

end Sys2Proof.Machine
end

/-! ## What a command can end in, what it may change, and which operands it needs (10_state.md R21, R32, R34)

First the dispatch of EMBED and EXTRACT with the phase kept. A step of a command completes it, with the grid as it was, or
leaves it running; either way only the command's own registers have changed. A command stops on an UNWRITTEN operand, or
for the collaborator. -/

section
namespace Sys2Proof.Machine

/-! ### The step that PHASE names -/

theorem execEmbed_cases (s : State) :
    (s.hid.phase = .embWrite ∧ execEmbed s = embWriteStep s) ∨
      (s.hid.phase ≠ .embWrite ∧ execEmbed s = embGateStep s) := by
  unfold execEmbed
  cases s.hid.phase <;> simp

theorem extractStep_cases (key : Bool) (s : State) :
    (s.hid.phase.scanning = false ∧ extractStep key s = extSizeStep s) ∨
      (s.hid.phase = .extHdr ∧ extractStep key s = extHdrStep s) ∨
      (s.hid.phase = .extParse ∧ extractStep key s = extParseStep s) ∨
      (s.hid.phase = .extCheck ∧ extractStep key s = extCheckStep s) ∨
      (s.hid.phase = .extPay ∧ extractStep key s = extPayStep s) ∨
      (s.hid.phase = .extDec ∧ extractStep key s = extDecStep key s) := by
  unfold extractStep
  cases s.hid.phase <;> simp [Phase.scanning]

/-! ### A command completes, or it runs on -/

/-- From `s` a command has completed in `t`: a STATUS word of `complete(e)`, PHASE IDLE, and the grid as it was
(60_exceptions.md R241, R243). -/
structure Completes (s t : State) : Prop where
  status : ∃ e, t.status = Status.completed e
  phase : t.hid.phase = .idle
  grid : t.grid = s.grid

/-- From `s` to `t` the command in OPW runs on (10_state.md R32). -/
structure RunsOn (s t : State) : Prop where
  status : t.status = s.status
  opw : t.hid.opw = s.hid.opw
  phase : t.hid.phase ≠ .idle

theorem completes_complete {s u : State} (e : Option CmdError) (hg : u.grid = s.grid) : Completes s (u.complete e) :=
  ⟨⟨e, rfl⟩, rfl, hg⟩

theorem failExtract_completes {e : CmdError} {s t : State} (h : failExtract e s = .next t) : Completes s t := by
  rw [failExtract_next.mp h]
  exact completes_complete _ rfl

theorem finishWithBout_completes {s t : State} {b : Bytes} (h : finishWithBout s b = .next t) : Completes s t := by
  rw [(finishWithBout_next.mp h).2]
  exact completes_complete _ rfl

theorem buildFrameCommand_completes {k : Kind} {s t : State} (h : buildFrameCommand k s = .next t) :
    Completes s t := by
  obtain ⟨_, -, rfl | rfl⟩ := buildFrameCommand_next h <;> exact completes_complete _ rfl

/-- A command without a phase of its own completes in its one step. -/
theorem exec_completes {i : Instr} {s t : State} (hi : startPhase i = .idle) (h : exec i s = .next t) :
    Completes s t := by
  cases i with
  | nop => cases h; exact completes_complete _ rfl
  | pack align => obtain ⟨-, rfl⟩ | ⟨_, -, rfl⟩ := execPack_next h <;> exact completes_complete _ rfl
  | unpack => obtain ⟨_, -, rfl⟩ := execUnpack_next h; exact completes_complete _ rfl
  | buildFrameU => exact buildFrameCommand_completes (k := .unencrypted) h
  | buildFrameE => exact buildFrameCommand_completes (k := .encrypted) h
  | parseHeader =>
    obtain ⟨_, -, ⟨_, rfl⟩ | ⟨_, _, rfl⟩⟩ := execParseHeader_next h <;> exact completes_complete _ rfl
  | maxPayload => obtain ⟨_, _, -, -, rfl⟩ := execMaxPayload_next h; exact completes_complete _ rfl
  | checkCapacity => obtain rfl | rfl := execCheckCapacity_next h <;> exact completes_complete _ rfl
  | embed | extract | extractKey => cases hi

theorem execEmbed_completes_or_runsOn {s t : State} (h : execEmbed s = .next t) : Completes s t ∨ RunsOn s t := by
  obtain ⟨hp, he⟩ | ⟨-, he⟩ := execEmbed_cases s <;> rw [he] at h
  · obtain ⟨-, rfl⟩ | ⟨-, _, -, rfl⟩ := embWriteStep_next h
    · exact .inl (completes_complete _ rfl)
    · exact .inr ⟨rfl, rfl, by simp [hp]⟩
  · obtain ⟨_, -, -, ⟨-, rfl⟩ | ⟨-, rfl⟩⟩ := embGateStep_next h
    · exact .inl (completes_complete _ rfl)
    · exact .inr ⟨rfl, rfl, by simp⟩

theorem extractStep_completes_or_runsOn {key : Bool} {s t : State} (h : extractStep key s = .next t) :
    Completes s t ∨ RunsOn s t := by
  obtain ⟨-, he⟩ | ⟨hp, he⟩ | ⟨-, he⟩ | ⟨-, he⟩ | ⟨hp, he⟩ | ⟨-, he⟩ := extractStep_cases key s <;> rw [he] at h
  · obtain ⟨-, ⟨-, hf⟩ | ⟨-, rfl⟩⟩ := extSizeStep_next h
    · obtain ⟨hs, hi, hg⟩ := failExtract_completes hf
      exact .inl ⟨hs, hi, hg⟩
    · exact .inr ⟨rfl, rfl, by simp⟩
  · obtain ⟨p, rfl⟩ := extHdrStep_next h
    split
    · exact .inr ⟨rfl, rfl, by simp⟩
    · exact .inr ⟨rfl, rfl, by simp [hp]⟩
  · obtain ⟨-, hf⟩ | ⟨k, len, -, rfl⟩ := extParseStep_next h
    · exact .inl (failExtract_completes hf)
    · exact .inr ⟨rfl, rfl, by simp⟩
  · obtain ⟨-, hf⟩ | ⟨-, ⟨-, rfl⟩ | ⟨-, rfl⟩⟩ := extCheckStep_next h
    · exact .inl (failExtract_completes hf)
    · exact .inr ⟨rfl, rfl, by simp⟩
    · exact .inr ⟨rfl, rfl, by simp⟩
  · obtain ⟨-, rfl⟩ | ⟨-, p, rfl⟩ := extPayStep_next h
    · exact .inr ⟨rfl, rfl, by simp⟩
    · exact .inr ⟨rfl, rfl, by simp [hp]⟩
  · obtain hf | ⟨b, hb⟩ := extDecStep_next h
    · exact .inl (failExtract_completes hf)
    · exact .inl (finishWithBout_completes hb)

/-- A step of a command completes it or, for EMBED and EXTRACT only, leaves it running. -/
theorem exec_completes_or_runsOn {i : Instr} {s t : State} (h : exec i s = .next t) :
    Completes s t ∨ (RunsOn s t ∧ (i = .embed ∨ i = .extract ∨ i = .extractKey)) := by
  cases i with
  | embed => exact (execEmbed_completes_or_runsOn h).imp_right (⟨·, by simp⟩)
  | extract => exact (extractStep_completes_or_runsOn (key := false) h).imp_right (⟨·, by simp⟩)
  | extractKey => exact (extractStep_completes_or_runsOn (key := true) h).imp_right (⟨·, by simp⟩)
  | nop | pack _ | unpack | buildFrameU | buildFrameE | parseHeader | maxPayload | checkCapacity =>
    exact .inl (exec_completes rfl h)

/-- The five words of `complete(e)` (60_exceptions.md R241). -/
theorem Status.completed_words (e : Option CmdError) :
    Status.completed e = 0x02 ∨ Status.completed e = 0x12 ∨ Status.completed e = 0x22 ∨ Status.completed e = 0x32 ∨
      Status.completed e = 0x42 := by
  rcases e with _ | e
  · decide
  · cases e <;> decide

/-- Settles O9: a step of a command completes it, or EMBED or EXTRACT runs on with STATUS as it was. -/
theorem commandRunsOrCompletes : Obligations.CommandRunsOrCompletes := by
  intro i s t hs h
  obtain ⟨⟨e, he⟩, hp, -⟩ | ⟨⟨hst, -, hp⟩, hi⟩ := exec_completes_or_runsOn h
  · exact .inr ⟨hp, he ▸ Status.completed_words e⟩
  · exact .inl ⟨hst.trans hs, hp, hi⟩

/-! ### The frame of a command -/

theorem buildFrameCommand_frame {k : Kind} {s t : State} (h : buildFrameCommand k s = .next t) :
    ∃ st hid b n, t = { s with status := st, hid := hid, bout := b, draws := n } := by
  obtain ⟨_, -, rfl | rfl⟩ := buildFrameCommand_next h <;> exact ⟨_, _, _, _, rfl⟩

theorem execParseHeader_frame {s t : State} (h : execParseHeader s = .next t) :
    ∃ st hid k l n, t = { s with status := st, hid := hid, kind := k, plen := l, draws := n } := by
  obtain ⟨_, -, ⟨_, rfl⟩ | ⟨_, _, rfl⟩⟩ := execParseHeader_next h <;> exact ⟨_, _, _, _, _, rfl⟩

theorem execEmbed_frame {s t : State} (h : execEmbed s = .next t) :
    ∃ st hid m, t = { s with status := st, hid := hid, grid := { s.grid with mem := m } } := by
  obtain hg | hw := execEmbed_next h
  · obtain ⟨_, -, -, ⟨-, rfl⟩ | ⟨-, rfl⟩⟩ := embGateStep_next hg <;> exact ⟨_, _, _, rfl⟩
  · obtain ⟨-, rfl⟩ | ⟨-, _, -, rfl⟩ := embWriteStep_next hw <;> exact ⟨_, _, _, rfl⟩

/-- What EXTRACT may change: STATUS, the hidden state, KIND, PLEN, BOUT and the counter of the free values. -/
def ExtractFrame (s t : State) : Prop :=
  ∃ st hid k l b n, t = { s with status := st, hid := hid, kind := k, plen := l, bout := b, draws := n }

theorem failExtract_frame {e : CmdError} {s t : State} (h : failExtract e s = .next t) : ExtractFrame s t := by
  rw [failExtract_next.mp h]
  exact ⟨_, _, _, _, _, _, rfl⟩

theorem finishWithBout_frame {s t : State} {b : Bytes} (h : finishWithBout s b = .next t) : ExtractFrame s t := by
  rw [(finishWithBout_next.mp h).2]
  exact ⟨_, _, _, _, _, _, rfl⟩

theorem extractStep_frame {key : Bool} {s t : State} (h : extractStep key s = .next t) : ExtractFrame s t := by
  obtain hs | hh | hp | hc | hy | hd := extractStep_next h
  · obtain ⟨-, ⟨-, hf⟩ | ⟨-, rfl⟩⟩ := extSizeStep_next hs
    · obtain ⟨_, _, _, _, _, _, rfl⟩ := failExtract_frame hf
      exact ⟨_, _, _, _, _, _, rfl⟩
    · exact ⟨_, _, _, _, _, _, rfl⟩
  · obtain ⟨p, rfl⟩ := extHdrStep_next hh
    split <;> exact ⟨_, _, _, _, _, _, rfl⟩
  · obtain ⟨-, hf⟩ | ⟨k, len, -, rfl⟩ := extParseStep_next hp
    · exact failExtract_frame hf
    · exact ⟨_, _, _, _, _, _, rfl⟩
  · obtain ⟨-, hf⟩ | ⟨-, ⟨-, rfl⟩ | ⟨-, rfl⟩⟩ := extCheckStep_next hc
    · exact failExtract_frame hf
    · exact ⟨_, _, _, _, _, _, rfl⟩
    · exact ⟨_, _, _, _, _, _, rfl⟩
  · obtain ⟨-, rfl⟩ | ⟨-, p, rfl⟩ := extPayStep_next hy <;> exact ⟨_, _, _, _, _, _, rfl⟩
  · obtain hf | ⟨b, hb⟩ := extDecStep_next hd
    · exact failExtract_frame hf
    · exact finishWithBout_frame hb

/-- Settles O12: by cases of the command, each next state being the old one with the fields of the command's frame
replaced. -/
theorem commandsWriteOnlyTheirRegisters : Obligations.CommandsWriteOnlyTheirRegisters := by
  intro i s t h
  cases i with
  | nop => cases h; simp
  | pack align => obtain ⟨-, rfl⟩ | ⟨_, -, rfl⟩ := execPack_next h <;> simp
  | unpack => obtain ⟨_, -, rfl⟩ := execUnpack_next h; simp
  | buildFrameU => obtain ⟨_, _, _, _, rfl⟩ := buildFrameCommand_frame (k := .unencrypted) h; simp
  | buildFrameE => obtain ⟨_, _, _, _, rfl⟩ := buildFrameCommand_frame (k := .encrypted) h; simp
  | parseHeader => obtain ⟨_, _, _, _, _, rfl⟩ := execParseHeader_frame h; simp
  | maxPayload => obtain ⟨_, _, -, -, rfl⟩ := execMaxPayload_next h; simp
  | checkCapacity => obtain rfl | rfl := execCheckCapacity_next h <;> simp
  | embed => obtain ⟨_, _, _, rfl⟩ := execEmbed_frame h; simp
  | extract => obtain ⟨_, _, _, _, _, _, rfl⟩ := extractStep_frame (key := false) h; simp
  | extractKey => obtain ⟨_, _, _, _, _, _, rfl⟩ := extractStep_frame (key := true) h; simp

/-! ### The operands a command needs -/

/-- A command's read of an operand stops on an UNWRITTEN cell, and what follows may stop for its own reasons. -/
theorem operand_fault {α : Type} {r : RegName} {c : Reg α} {k : α → Result} {f : Fault} :
    operand r c k = .fault f ↔
      (c = .unwritten ∧ f = .unwrittenOperand r) ∨ ∃ v, c = .written v ∧ k v = .fault f := by
  cases c <;> simp [eq_comm]

theorem finishWithBout_ne_fault (s : State) (b : Bytes) (f : Fault) : finishWithBout s b ≠ .fault f := by
  unfold finishWithBout
  split <;> simp

theorem finishWithSout_ne_fault (s : State) (y : Syms) (f : Fault) : finishWithSout s y ≠ .fault f := by
  unfold finishWithSout
  split <;> simp

theorem failExtract_ne_fault (e : CmdError) (s : State) (f : Fault) : failExtract e s ≠ .fault f := by
  simp [failExtract]

theorem Grid.get_error {g : Grid} {x y : Nat} {f : Fault} (h : g.get x y = .error f) : f = .collaboratorFailure := by
  unfold Grid.get at h
  split at h
  · cases h; rfl
  · split at h <;> cases h
    rfl

theorem Grid.set_error {g : Grid} {x y : Nat} {p : Pixel} {f : Fault} (h : g.set x y p = .error f) :
    f = .collaboratorFailure := by
  unfold Grid.set at h
  split at h
  · cases h; rfl
  · split at h <;> cases h
    rfl

theorem withGeometry_fault {s : State} {k : State → Result} {f : Fault} (h : withGeometry s k = .fault f) :
    f = .collaboratorFailure ∨ k { s with hid := { s.hid with geom := (s.grid.w, s.grid.h) } } = .fault f := by
  unfold withGeometry at h
  split at h
  · cases h; exact .inl rfl
  · exact .inr h

theorem memRead_fault {s : State} {i : Nat} {k : Pixel → Result} {f : Fault} (h : memRead s i k = .fault f) :
    f = .collaboratorFailure ∨ ∃ p, k p = .fault f := by
  unfold memRead at h
  split at h
  · exact .inr ⟨_, h⟩
  · next hg => cases h; exact .inl (Grid.get_error hg)

theorem memWrite_fault {s : State} {i : Nat} {p : Pixel} {k : State → Result} {f : Fault}
    (h : memWrite s i p k = .fault f) : f = .collaboratorFailure ∨ ∃ t, k t = .fault f := by
  unfold memWrite at h
  split at h
  · exact .inr ⟨_, h⟩
  · next hg => cases h; exact .inl (Grid.set_error hg)

theorem nextSymbol_fault {s : State} {k : State → Result} {f : Fault} (h : nextSymbol s k = .fault f) :
    f = .collaboratorFailure ∨ ∃ t, k t = .fault f := by
  unfold nextSymbol at h
  split at h
  · exact (memRead_fault h).imp_right fun ⟨_, hp⟩ => ⟨_, hp⟩
  · exact .inr ⟨_, h⟩

theorem execPack_fault {align : BitVec 8} {s : State} {f : Fault} (h : execPack align s = .fault f) :
    s.bin = .unwritten ∧ f = .unwrittenOperand .bin := by
  unfold execPack at h
  split at h
  · cases h
  · obtain hu | ⟨b, -, hb⟩ := operand_fault.mp h
    · exact hu
    · exact absurd hb (finishWithSout_ne_fault _ _ _)

theorem execUnpack_fault {s : State} {f : Fault} (h : execUnpack s = .fault f) :
    s.sin = .unwritten ∧ f = .unwrittenOperand .sin := by
  obtain hu | ⟨y, -, hy⟩ := operand_fault.mp h
  · exact hu
  · exact absurd hy (finishWithBout_ne_fault _ _ _)

theorem buildFrameCommand_fault {k : Kind} {s : State} {f : Fault} (h : buildFrameCommand k s = .fault f) :
    s.bin = .unwritten ∧ f = .unwrittenOperand .bin := by
  obtain hu | ⟨p, -, hp⟩ := operand_fault.mp h
  · exact hu
  · split at hp
    · cases hp
    · exact absurd hp (finishWithBout_ne_fault _ _ _)

theorem execParseHeader_fault {s : State} {f : Fault} (h : execParseHeader s = .fault f) :
    s.bin = .unwritten ∧ f = .unwrittenOperand .bin := by
  obtain hu | ⟨hd, -, hp⟩ := operand_fault.mp h
  · exact hu
  · split at hp
    · cases hp
    · split at hp <;> cases hp

theorem execMaxPayload_fault {s : State} {f : Fault} (h : execMaxPayload s = .fault f) :
    (s.gw = .unwritten ∧ f = .unwrittenOperand .gw) ∨ (s.gh = .unwritten ∧ f = .unwrittenOperand .gh) := by
  obtain hu | ⟨w, -, h⟩ := operand_fault.mp h
  · exact .inl hu
  · obtain hu | ⟨hh, -, h⟩ := operand_fault.mp h
    · exact .inr hu
    · cases h

theorem execCheckCapacity_fault {s : State} {f : Fault} (h : execCheckCapacity s = .fault f) :
    (s.bin = .unwritten ∧ f = .unwrittenOperand .bin) ∨ (s.gw = .unwritten ∧ f = .unwrittenOperand .gw) ∨
      (s.gh = .unwritten ∧ f = .unwrittenOperand .gh) := by
  obtain hu | ⟨frame, -, h⟩ := operand_fault.mp h
  · exact .inl hu
  · obtain hu | ⟨w, -, h⟩ := operand_fault.mp h
    · exact .inr (.inl hu)
    · obtain hu | ⟨hh, -, h⟩ := operand_fault.mp h
      · exact .inr (.inr hu)
      · split at h <;> cases h

theorem execEmbed_fault {s : State} {f : Fault} (h : execEmbed s = .fault f) :
    f = .collaboratorFailure ∨ (s.bin = .unwritten ∧ f = .unwrittenOperand .bin) := by
  obtain ⟨-, he⟩ | ⟨-, he⟩ := execEmbed_cases s <;> rw [he] at h
  · unfold embWriteStep at h
    split at h
    · cases h
    · obtain hc | ⟨p, h⟩ := memRead_fault h
      · exact .inl hc
      · obtain hc | ⟨t, h⟩ := memWrite_fault h
        · exact .inl hc
        · cases h
  · obtain hu | ⟨frame, -, h⟩ := operand_fault.mp h
    · exact .inr hu
    · obtain hc | h := withGeometry_fault h
      · exact .inl hc
      · split at h <;> cases h

theorem extDecStep_fault {key : Bool} {s : State} {f : Fault} (h : extDecStep key s = .fault f) :
    key = true ∧ s.hid.hk = .encrypted ∧ s.pwd = .unwritten ∧ f = .unwrittenOperand .pwd := by
  unfold extDecStep at h
  split at h
  · exact absurd h (finishWithBout_ne_fault _ _ _)
  · exact absurd h (failExtract_ne_fault _ _ _)
  · next hk =>
    obtain ⟨hu, hf⟩ | ⟨pwd, -, h⟩ := operand_fault.mp h
    · exact ⟨rfl, hk, hu, hf⟩
    · split at h
      · exact absurd h (failExtract_ne_fault _ _ _)
      · exact absurd h (finishWithBout_ne_fault _ _ _)

/-- EXTRACT stops for the collaborator, or in its last step for PWD. -/
theorem extractStep_fault {key : Bool} {s : State} {f : Fault} (h : extractStep key s = .fault f) :
    f = .collaboratorFailure ∨
      (s.hid.phase = .extDec ∧ key = true ∧ s.hid.hk = .encrypted ∧ s.pwd = .unwritten ∧
        f = .unwrittenOperand .pwd) := by
  obtain ⟨-, he⟩ | ⟨-, he⟩ | ⟨-, he⟩ | ⟨-, he⟩ | ⟨-, he⟩ | ⟨hp, he⟩ := extractStep_cases key s <;> rw [he] at h
  · obtain hc | h := withGeometry_fault h
    · exact .inl hc
    · split at h
      · exact absurd h (failExtract_ne_fault _ _ _)
      · cases h
  · obtain hc | ⟨t, h⟩ := nextSymbol_fault h
    · exact .inl hc
    · cases h
  · unfold extParseStep at h
    split at h
    · exact absurd h (failExtract_ne_fault _ _ _)
    · cases h
  · unfold extCheckStep at h
    split at h
    · exact absurd h (failExtract_ne_fault _ _ _)
    · split at h <;> cases h
  · unfold extPayStep at h
    split at h
    · cases h
    · obtain hc | ⟨t, h⟩ := nextSymbol_fault h
      · exact .inl hc
      · cases h
  · exact .inr ⟨hp, extDecStep_fault h⟩

/-- The operand a command's fault names is UNWRITTEN and one the command reads (10_state.md R34, 60_exceptions.md
R246). -/
def NeedsOperand (i : Instr) (s : State) (r : RegName) : Prop :=
  (r = .bin ∧ s.bin = .unwritten ∧ ((∃ a, i = .pack a) ∨ i = .buildFrameU ∨ i = .buildFrameE ∨ i = .parseHeader ∨
    i = .checkCapacity ∨ i = .embed)) ∨
  (r = .sin ∧ s.sin = .unwritten ∧ i = .unpack) ∨
  (r = .gw ∧ s.gw = .unwritten ∧ (i = .maxPayload ∨ i = .checkCapacity)) ∨
  (r = .gh ∧ s.gh = .unwritten ∧ (i = .maxPayload ∨ i = .checkCapacity)) ∨
  (r = .pwd ∧ s.pwd = .unwritten ∧ i = .extractKey ∧ s.hid.phase = .extDec ∧ s.hid.hk = .encrypted)

theorem exec_unwrittenOperand {i : Instr} {s : State} {r : RegName}
    (h : exec i s = .fault (.unwrittenOperand r)) : NeedsOperand i s r := by
  unfold NeedsOperand
  cases i with
  | nop => cases h
  | pack align => obtain ⟨hu, hr⟩ := execPack_fault h; cases hr; simp [hu]
  | unpack => obtain ⟨hu, hr⟩ := execUnpack_fault h; cases hr; simp [hu]
  | buildFrameU => obtain ⟨hu, hr⟩ := buildFrameCommand_fault (k := .unencrypted) h; cases hr; simp [hu]
  | buildFrameE => obtain ⟨hu, hr⟩ := buildFrameCommand_fault (k := .encrypted) h; cases hr; simp [hu]
  | parseHeader => obtain ⟨hu, hr⟩ := execParseHeader_fault h; cases hr; simp [hu]
  | maxPayload => obtain ⟨hu, hr⟩ | ⟨hu, hr⟩ := execMaxPayload_fault h <;> cases hr <;> simp [hu]
  | checkCapacity =>
    obtain ⟨hu, hr⟩ | ⟨hu, hr⟩ | ⟨hu, hr⟩ := execCheckCapacity_fault h <;> cases hr <;> simp [hu]
  | embed => obtain hr | ⟨hu, hr⟩ := execEmbed_fault h <;> cases hr; simp [hu]
  | extract => obtain hr | ⟨-, hk, -⟩ := extractStep_fault (key := false) h <;> contradiction
  | extractKey =>
    obtain hr | ⟨hp, -, hk, hu, hr⟩ := extractStep_fault (key := true) h <;> cases hr
    simp [hp, hk, hu]

/-- Settles O13: the commands read their operands in the order of the clauses, and only those reads raise the fault. -/
theorem unwrittenOperandFaults : Obligations.UnwrittenOperandFaults := by
  refine ⟨?pack, ?unpack, ?bin, ?gw, ?gh, ?pwd, fun _ _ _ => exec_unwrittenOperand⟩
  case pack => intro s a ha hb; simpa [exec, execPack, hb] using ha
  case unpack => intro s hs; simp [exec, execUnpack, hs]
  case bin =>
    intro s hb
    refine ⟨?_, ?_, ?_, ?_, fun hp => ?_⟩
    · simp [exec, execBuildFrameU, buildFrameCommand, hb]
    · simp [exec, execBuildFrameE, buildFrameCommand, hb]
    · simp [exec, execParseHeader, hb]
    · simp [exec, execCheckCapacity, hb]
    · simp [exec, execEmbed, hp, embGateStep, hb]
  case gw =>
    intro s hw
    exact ⟨by simp [exec, execMaxPayload, hw], fun b hb => by simp [exec, execCheckCapacity, hb, hw]⟩
  case gh =>
    intro s n hw hh
    exact ⟨by simp [exec, execMaxPayload, hw, hh], fun b hb => by simp [exec, execCheckCapacity, hb, hw, hh]⟩
  case pwd =>
    intro s hp hk hu
    simp [exec, execExtractKey, extractStep, hp, extDecStep, hk, hu]

end Sys2Proof.Machine
end

/-! ## The reset state, and the host's reads and writes of registers (10_state.md R21, R22, R39) -/

section
namespace Sys2Proof.Machine

/-- Settles O49: the reset state, field by field. -/
theorem resetValues : Obligations.ResetValues :=
  ⟨rfl, rfl, rfl, rfl, rfl, rfl, rfl, rfl, rfl, rfl, rfl, rfl, rfl⟩

/-- A step takes the head of the script. -/
theorem step_of_script {s : State} {a : Action} {rest : List Action} (h : s.host.script = a :: rest) :
    step s = act a rest s := by
  simp [step, stepOf, h]

theorem hostWrite_busy {s t : State} {r : RegName} {inDomain : Bool} (h : s.busy = true) :
    hostWrite s r inDomain t = .next s :=
  hostWrite_next.mpr (.inl ⟨h, rfl⟩)

theorem hostWrite_idle {s t : State} {r : RegName} {inDomain : Bool} (h : s.busy = false) (hd : inDomain = true) :
    hostWrite s r inDomain t = .next t :=
  hostWrite_next.mpr (.inr ⟨h, hd, rfl⟩)

/-- The domain of GW and GH: below `2^DIM_BITS`, where given (10_state.md R24). -/
theorem withinBound_dimBits {n : Nat} {d : Option Nat} (h : ∀ m, d = some m → n < 2 ^ m) :
    withinBound (n + 1) (d.map (2 ^ ·)) = true := by
  cases d with
  | none => rfl
  | some m => simpa [withinBound] using h m rfl

/-- Settles O55: each SET of an operand register is a host write of it, ignored while BUSY. -/
theorem operandWrites : Obligations.OperandWrites := by
  intro s rest n b y a hs ha
  rw [step_of_script hs]
  refine ⟨fun hb => ?busy, fun hb => ⟨?gw, ?gh, ?pwd, ?bin, ?sin⟩⟩
  case busy => obtain rfl | rfl | rfl | rfl | rfl := ha <;> exact hostWrite_busy (s := s.withScript rest) hb
  case gw => rintro rfl hd; exact hostWrite_idle (s := s.withScript rest) hb (withinBound_dimBits hd)
  case gh => rintro rfl hd; exact hostWrite_idle (s := s.withScript rest) hb (withinBound_dimBits hd)
  case pwd => rintro rfl; exact hostWrite_idle (s := s.withScript rest) hb rfl
  case bin => rintro rfl hd; exact hostWrite_idle (s := s.withScript rest) hb (withinBound_iff.mpr hd)
  case sin => rintro rfl hd; exact hostWrite_idle (s := s.withScript rest) hb (withinBound_iff.mpr hd)

/-- A read of a register that holds a value, of a result register while no command runs, gives that value. -/
theorem hostRead_of_stored {s : State} {r : ReadReg} {v : HostValue} (hb : (s.busy && r.isResult) = false)
    (hv : storedValue s r = some v) :
    hostRead s r = (v, { s with host := { s.host with lastRead := some v } }) := by
  simp [hostRead, hostValue, hb, hv]

theorem step_get_of_stored {s : State} {rest : List Action} {r : ReadReg} {v : HostValue}
    (hs : s.host.script = .get r :: rest) (hb : (s.busy && r.isResult) = false) (hv : storedValue s r = some v) :
    step s = .next { s with host := { script := rest, lastRead := some v } } := by
  have hv' : storedValue (s.withScript rest) r = some v := by
    cases r <;> exact hv
  rw [step_of_script hs, act, hostGet, hostRead_of_stored (s := s.withScript rest) hb hv']
  rfl

/-- Settles O56: every register of the statement holds the value named, and a result register is read while no command
runs. -/
theorem hostReads : Obligations.HostReads := by
  intro s rest r v hs h
  obtain ⟨rfl, rfl⟩ | ⟨rfl, rfl⟩ | ⟨_, rfl, hr, rfl⟩ | ⟨_, rfl, hr, rfl⟩ | ⟨_, rfl, hr, rfl⟩ | ⟨_, rfl, hr, rfl⟩ |
    ⟨hb, hres⟩ := h
  case inr.inr.inr.inr.inr.inr =>
    obtain ⟨_, rfl, hr, rfl⟩ | ⟨_, rfl, hr, rfl⟩ | ⟨_, rfl, hr, rfl⟩ | ⟨_, rfl, hr, rfl⟩ | ⟨_, rfl, hr, rfl⟩ := hres
    all_goals exact step_get_of_stored hs (by simp [hb]) (by simp [storedValue, hr])
  case inl | inr.inl => exact step_get_of_stored hs (by simp [ReadReg.isResult]) rfl
  all_goals exact step_get_of_stored hs (by simp [ReadReg.isResult]) (by simp [storedValue, hr])

end Sys2Proof.Machine
end

/-! ## Every step keeps the machine's invariant (10_state.md R32, R39)

An idle state meets the invariant by its STATUS and its grid alone. A command that completes leaves such a state; one
that runs on leaves what its step form has built. Of the other agents' actions, those that write registers or the grid
find the core idle. -/

section
namespace Sys2Proof.Machine

/-! ### States that meet the invariant -/

theorem inv_iff_of_idle {s : State} (hp : s.hid.phase = .idle) :
    Inv s ↔ StatusLegal s.status ∧ s.busy = false ∧ Grid.wf s.grid where
  mp := fun h => ⟨h.status, h.idle.mpr hp, h.grid⟩
  mpr := fun ⟨hs, hb, hg⟩ =>
    { status := hs
      idle := by simp [hb, hp]
      grid := hg
      command := by simp [PhaseMatches, hp]
      embed := by simp [hp]
      geometry := by simp [hp, Phase.scanning]
      extract := by simp [ExtractProgress, hp] }

/-- Settles O42: the reset state is idle, with STATUS 0 and the empty grid. -/
theorem resetMeetsInvariant : Obligations.ResetMeetsInvariant :=
  (inv_iff_of_idle rfl).mpr ⟨.inl rfl, Status.busy_zero, Grid.wf_empty⟩

theorem Inv.busy_eq_true_iff {s : State} (hs : Inv s) : s.busy = true ↔ s.hid.phase ≠ .idle := by
  simp [← hs.idle]

/-- An idle state keeps the invariant when its registers but STATUS change, and its grid to another canonical one. -/
theorem Inv.of_idle {s t : State} (hs : Inv s) (hb : s.busy = false) (hst : t.status = s.status)
    (hh : t.hid = s.hid) (hg : Grid.wf t.grid) : Inv t := by
  have hp : t.hid.phase = .idle := hh ▸ hs.idle.mp hb
  refine (inv_iff_of_idle hp).mpr ⟨hst ▸ hs.status, ?_, hg⟩
  rw [State.busy, hst]
  exact hb

/-- The invariant says nothing of the host's side, the free values and the collaborator's failing. -/
theorem Inv.outside {s : State} (hs : Inv s) (host : HostSide) (n : Nat) (fails : Bool) :
    Inv { s with host := host, draws := n, grid := { s.grid with fails := fails } } where
  status := hs.status
  idle := hs.idle
  grid := hs.grid
  command := hs.command
  embed hp :=
    have ⟨geometry, gate, cursor, before⟩ := hs.embed hp
    ⟨geometry, gate, cursor, before⟩
  geometry := hs.geometry
  extract := by
    have known (h : HeaderKnown s) :
        HeaderKnown { s with host := host, draws := n, grid := { s.grid with fails := fails } } :=
      ⟨h.header, h.kind, h.plen, h.needed⟩
    have hx := hs.extract
    unfold ExtractProgress at hx ⊢
    cases hp : s.hid.phase <;> simp only [hp] at hx ⊢
    case extHdr | extParse => exact hx
    case extCheck => exact ⟨hx.1, hx.2.1, known hx.2.2⟩
    case extPay | extDec => exact ⟨known hx.1, hx.2⟩

theorem Inv.withScript {s : State} (hs : Inv s) (script : List Action) : Inv (s.withScript script) :=
  hs.outside { s.host with script := script } s.draws s.grid.fails

theorem Inv.of_completes {s t : State} (hg : Grid.wf s.grid) (h : Completes s t) : Inv t := by
  obtain ⟨⟨e, hst⟩, hp, hgt⟩ := h
  exact (inv_iff_of_idle hp).mpr ⟨.inr (.inr ⟨e, hst⟩), by simp [State.busy, hst], hgt ▸ hg⟩

/-- A command that runs on keeps STATUS legal and the core busy. -/
theorem RunsOn.status_and_idle {s t : State} (h : RunsOn s t) (hs : Inv s) (hb : s.busy = true) :
    StatusLegal t.status ∧ (t.busy = false ↔ t.hid.phase = .idle) := by
  have hbt : t.busy = true := by rw [State.busy, h.status]; exact hb
  exact ⟨h.status ▸ hs.status, by simp [hbt, h.phase]⟩

theorem Inv.of_embWrite {s t : State} (hs : Inv s) (hb : s.busy = true) (hd : decode s.hid.opw = .ok .embed)
    (h : RunsOn s t) (hp : t.hid.phase = .embWrite) (hg : Grid.wf t.grid) (he : EmbedProgress t) : Inv t where
  status := (h.status_and_idle hs hb).1
  idle := (h.status_and_idle hs hb).2
  grid := hg
  command := by simpa [PhaseMatches, hp, h.opw] using hd
  embed _ := he
  geometry := by simp [hp, Phase.scanning]
  extract := by simp [ExtractProgress, hp]

theorem Inv.of_scanning {s t : State} (hs : Inv s) (hb : s.busy = true)
    (hd : decode s.hid.opw = .ok .extract ∨ decode s.hid.opw = .ok .extractKey) (h : RunsOn s t)
    (hp : t.hid.phase.scanning = true) (hg : t.grid = s.grid)
    (hgeo : t.hid.geom = (s.grid.w, s.grid.h) ∧ headerSyms ≤ 3 * (s.grid.w * s.grid.h))
    (hx : ExtractProgress t) : Inv t where
  status := (h.status_and_idle hs hb).1
  idle := (h.status_and_idle hs hb).2
  grid := hg ▸ hs.grid
  command := by
    rw [h.opw]
    cases hpt : t.hid.phase
    case extHdr | extParse | extCheck | extPay | extDec => exact hd
    all_goals simp [hpt, Phase.scanning] at hp
  embed hpt := by simp [hpt, Phase.scanning] at hp
  geometry _ := hg ▸ hgeo
  extract := hx

/-! ### EMBED -/

theorem embGateStep_keeps_inv {s t : State} (hs : Inv s) (hb : s.busy = true)
    (hd : decode s.hid.opw = .ok .embed) (h : embGateStep s = .next t) : Inv t := by
  obtain ⟨frame, hbin, -, ⟨-, rfl⟩ | ⟨hfit, rfl⟩⟩ := embGateStep_next h
  · exact .of_completes hs.grid (completes_complete _ rfl)
  · exact hs.of_embWrite hb hd ⟨rfl, rfl, by simp⟩ rfl hs.grid
      { geometry := rfl
        gate := ⟨frame, hbin, hfit, rfl⟩
        cursor := ⟨0, Nat.zero_le _, rfl, rfl⟩
        before := hs.grid }

/-- EMBED's cursor before the end of its stream stands at a pixel of the stream that the grid has. -/
theorem EmbedProgress.cursor_inside {s : State} (h : EmbedProgress s) (hk : s.hid.k ≠ s.hid.stream.length) :
    ∃ n, n < s.hid.stream.length / 3 ∧ n < s.grid.w * s.grid.h ∧ s.hid.k = 3 * n ∧
      s.grid.mem = embedPixels s.hid.stream s.hid.memBefore n := by
  obtain ⟨n, hn, hkn, hm⟩ := h.cursor
  obtain ⟨frame, -, hfit, hstream⟩ := h.gate
  have hlen : s.hid.stream.length = 3 * ((4 * frame.length + 2) / 3) := hstream ▸ pack_embedAlign_length frame
  have hfits : s.hid.stream.length / 3 ≤ s.grid.w * s.grid.h := hstream ▸ stream_fits hfit
  have hlt : n < s.hid.stream.length / 3 := by omega
  exact ⟨n, hlt, by omega, hkn, hm⟩

theorem embWriteStep_keeps_inv {s t : State} (hs : Inv s) (hb : s.busy = true)
    (hd : decode s.hid.opw = .ok .embed) (hp : s.hid.phase = .embWrite) (h : embWriteStep s = .next t) :
    Inv t := by
  have he := hs.embed hp
  obtain ⟨-, rfl⟩ | ⟨hk, i, hi, rfl⟩ := embWriteStep_next h
  · exact .of_completes hs.grid (completes_complete _ rfl)
  · obtain ⟨n, hn, hin, hkn, hm⟩ := he.cursor_inside hk
    have hin' : i = n := by
      rw [hi, he.geometry, Nat.div_add_mod']
      omega
    subst hin'
    refine hs.of_embWrite hb hd ⟨rfl, rfl, by simp [hp]⟩ hp (Grid.wf_writePixel hs.grid _ hin)
      { geometry := he.geometry, gate := he.gate, cursor := ⟨i + 1, hn, ?_, ?_⟩, before := he.before }
    · show s.hid.k + 3 = 3 * (i + 1)
      omega
    · rw [embedPixels, ← hm, ← hkn]

/-! ### EXTRACT -/

/-- One symbol of a scan is that of the grid: the latch holds the pixel the cursor stands in (45_extractor.md R225). -/
theorem nextSymbol_scans {s t : State} {k : State → Result} (hgeo : s.hid.geom = (s.grid.w, s.grid.h))
    (hl : LatchCurrent s) (h : nextSymbol s k = .next t) :
    k (s.collect (Memory.readPixel s.grid.mem (s.hid.k / 3))) = .next t := by
  obtain ⟨p, hk, hp⟩ := nextSymbol_next.mp h
  split at hp
  · obtain ⟨-, -, -, hp⟩ := Grid.get_ok.mp hp
    rwa [hp, hgeo, Nat.div_add_mod'] at hk
  · next hmod => rwa [hp, hl hmod] at hk

/-- The symbol of the cursor's pixel makes the scan one longer, and the latch stays current. -/
theorem collect_scans {s : State} (hacc : s.hid.acc = scanSyms s.grid.mem s.hid.k) :
    (s.collect (Memory.readPixel s.grid.mem (s.hid.k / 3))).hid.acc = scanSyms s.grid.mem (s.hid.k + 1) ∧
      LatchCurrent (s.collect (Memory.readPixel s.grid.mem (s.hid.k / 3))) := by
  constructor
  · simp [hacc, scanSyms_succ, gridSym]
  · intro (hmod : (s.hid.k + 1) % 3 ≠ 0)
    have hpix : (s.hid.k + 1) / 3 = s.hid.k / 3 := by omega
    simp [hpix]

theorem latchCurrent_of_mod {s : State} (h : s.hid.k % 3 = 0) : LatchCurrent s := fun hn => absurd h hn

/-- After the header scan, what the parse finds is the grid's header. -/
theorem headerOf_of_scan {s : State} {r : Kind × BitVec 64} (hsize : headerSyms ≤ 3 * (s.grid.w * s.grid.h))
    (hacc : s.hid.acc = scanSyms s.grid.mem headerSyms) (h : parseHeader (unpack s.hid.acc) = some r) :
    headerOf s.grid = some r := by
  rw [headerOf, if_neg (Nat.not_lt.mpr hsize), ← hacc, h]

theorem extDecStep_completes {key : Bool} {s t : State} (h : extDecStep key s = .next t) : Completes s t := by
  obtain hf | ⟨b, hb⟩ := extDecStep_next h
  · exact failExtract_completes hf
  · exact finishWithBout_completes hb

section
variable {s t : State} (hs : Inv s) (hb : s.busy = true)
  (hd : decode s.hid.opw = .ok .extract ∨ decode s.hid.opw = .ok .extractKey)
include hs hb hd

theorem extSizeStep_keeps_inv (h : extSizeStep s = .next t) : Inv t := by
  obtain ⟨-, ⟨-, hf⟩ | ⟨hsize, rfl⟩⟩ := extSizeStep_next h
  · refine .of_completes ?_ (failExtract_completes hf)
    exact hs.grid
  · exact hs.of_scanning hb hd ⟨rfl, rfl, by simp⟩ rfl rfl ⟨rfl, hsize⟩
      ⟨show 0 < headerSyms by decide, rfl, latchCurrent_of_mod rfl⟩

theorem extHdrStep_keeps_inv (hp : s.hid.phase = .extHdr) (h : extHdrStep s = .next t) : Inv t := by
  have hgeo := hs.geometry (by simp [hp, Phase.scanning])
  obtain ⟨hk, hacc, hl⟩ : s.hid.k < headerSyms ∧ s.hid.acc = scanSyms s.grid.mem s.hid.k ∧ LatchCurrent s := by
    simpa [ExtractProgress, hp] using hs.extract
  obtain ⟨hacc', hl'⟩ := collect_scans hacc
  cases nextSymbol_scans hgeo.1 hl h
  split
  · next hlast =>
    replace hlast : s.hid.k + 1 = headerSyms := hlast
    exact hs.of_scanning hb hd ⟨rfl, rfl, by simp⟩ rfl rfl hgeo ⟨hlast, hlast ▸ hacc'⟩
  · next hmore =>
    replace hmore : s.hid.k + 1 ≠ headerSyms := hmore
    refine hs.of_scanning hb hd ⟨rfl, rfl, by simp [hp]⟩ (by simp [hp, Phase.scanning]) rfl hgeo ?_
    simp only [ExtractProgress, State.collect_hid, hp]
    exact ⟨by omega, hacc', hl'⟩

theorem extParseStep_keeps_inv (hp : s.hid.phase = .extParse) (h : extParseStep s = .next t) : Inv t := by
  have hgeo := hs.geometry (by simp [hp, Phase.scanning])
  obtain ⟨hk, hacc⟩ : s.hid.k = headerSyms ∧ s.hid.acc = scanSyms s.grid.mem headerSyms := by
    simpa [ExtractProgress, hp] using hs.extract
  obtain ⟨-, hf⟩ | ⟨k, len, hparse, rfl⟩ := extParseStep_next h
  · exact .of_completes hs.grid (failExtract_completes hf)
  · exact hs.of_scanning hb hd ⟨rfl, rfl, by simp⟩ rfl rfl hgeo
      ⟨hk, hacc, headerOf_of_scan hgeo.2 hacc hparse, rfl, rfl, rfl⟩

theorem extCheckStep_keeps_inv (hp : s.hid.phase = .extCheck) (h : extCheckStep s = .next t) : Inv t := by
  have hgeo := hs.geometry (by simp [hp, Phase.scanning])
  obtain ⟨hk, hacc, hh, hkind, hplen, hneed⟩ :
      s.hid.k = headerSyms ∧ s.hid.acc = scanSyms s.grid.mem headerSyms ∧ HeaderKnown s := by
    simpa [ExtractProgress, hp] using hs.extract
  obtain ⟨-, hf⟩ | ⟨hfit, hnext⟩ := extCheckStep_next h
  · exact .of_completes hs.grid (failExtract_completes hf)
  · rw [hgeo.1] at hfit
    obtain ⟨-, rfl⟩ | ⟨-, rfl⟩ := hnext
    · exact hs.of_scanning hb hd ⟨rfl, rfl, by simp⟩ rfl rfl hgeo
        ⟨⟨hh, hkind, hplen, hneed⟩, hfit, Nat.zero_le _, rfl, latchCurrent_of_mod rfl⟩
    · have hle : s.hid.k ≤ s.hid.needed := by
        rw [hk, hneed]
        exact Nat.le_add_right _ _
      exact hs.of_scanning hb hd ⟨rfl, rfl, by simp⟩ rfl rfl hgeo
        ⟨⟨hh, hkind, hplen, hneed⟩, hfit, hle, hk ▸ hacc, latchCurrent_of_mod (by simp [hk, headerSyms])⟩

theorem extPayStep_keeps_inv (hp : s.hid.phase = .extPay) (h : extPayStep s = .next t) : Inv t := by
  have hgeo := hs.geometry (by simp [hp, Phase.scanning])
  obtain ⟨⟨hh, hkind, hplen, hneed⟩, hfit, hle, hacc, hl⟩ : HeaderKnown s ∧
      s.hid.needed ≤ 3 * (s.grid.w * s.grid.h) ∧ s.hid.k ≤ s.hid.needed ∧
      s.hid.acc = scanSyms s.grid.mem s.hid.k ∧ LatchCurrent s := by
    simpa [ExtractProgress, hp] using hs.extract
  unfold extPayStep at h
  split at h
  · next hk =>
    cases h
    exact hs.of_scanning hb hd ⟨rfl, rfl, by simp⟩ rfl rfl hgeo ⟨⟨hh, hkind, hplen, hneed⟩, hfit, hk ▸ hacc⟩
  · next hk =>
    obtain ⟨hacc', hl'⟩ := collect_scans hacc
    cases nextSymbol_scans hgeo.1 hl h
    refine hs.of_scanning hb hd ⟨rfl, rfl, by simp [hp]⟩ (by simp [hp, Phase.scanning]) rfl hgeo ?_
    simp only [ExtractProgress, State.collect_hid, hp]
    exact ⟨⟨hh, hkind, hplen, hneed⟩, hfit, by show s.hid.k + 1 ≤ s.hid.needed; omega, hacc', hl'⟩

theorem extractStep_keeps_inv {key : Bool} (h : extractStep key s = .next t) : Inv t := by
  obtain ⟨-, he⟩ | ⟨hp, he⟩ | ⟨hp, he⟩ | ⟨hp, he⟩ | ⟨hp, he⟩ | ⟨-, he⟩ := extractStep_cases key s <;> rw [he] at h
  · exact extSizeStep_keeps_inv hs hb hd h
  · exact extHdrStep_keeps_inv hs hb hd hp h
  · exact extParseStep_keeps_inv hs hb hd hp h
  · exact extCheckStep_keeps_inv hs hb hd hp h
  · exact extPayStep_keeps_inv hs hb hd hp h
  · exact .of_completes hs.grid (extDecStep_completes h)

end

/-! ### Commands -/

theorem execEmbed_keeps_inv {s t : State} (hs : Inv s) (hb : s.busy = true) (hd : decode s.hid.opw = .ok .embed)
    (h : execEmbed s = .next t) : Inv t := by
  obtain ⟨hp, he⟩ | ⟨-, he⟩ := execEmbed_cases s <;> rw [he] at h
  · exact embWriteStep_keeps_inv hs hb hd hp h
  · exact embGateStep_keeps_inv hs hb hd h

/-- A step of the running command keeps the invariant. -/
theorem exec_keeps_inv {i : Instr} {s t : State} (hs : Inv s) (hb : s.busy = true) (hd : decode s.hid.opw = .ok i)
    (h : exec i s = .next t) : Inv t := by
  cases i with
  | embed => exact execEmbed_keeps_inv hs hb hd h
  | extract => exact extractStep_keeps_inv (key := false) hs hb (.inl hd) h
  | extractKey => exact extractStep_keeps_inv (key := true) hs hb (.inr hd) h
  | nop | pack _ | unpack | buildFrameU | buildFrameE | parseHeader | maxPayload | checkCapacity =>
    exact .of_completes hs.grid (exec_completes rfl h)

/-- The first phase of EMBED and EXTRACT asks for nothing but the command's word. -/
theorem inv_accept {s : State} {w : Word} {i : Instr} (hg : Grid.wf s.grid) (hd : decode w = .ok i)
    (hi : startPhase i ≠ .idle) : Inv (s.accept w (startPhase i)) where
  status := .inr (.inl rfl)
  idle := by simp [hi]
  grid := hg
  command := by cases i <;> simp [startPhase, PhaseMatches, hd] at hi ⊢
  embed hp := by cases i <;> simp [startPhase] at hp
  geometry hp := by cases i <;> simp [startPhase, Phase.scanning] at hp
  extract := by cases i <;> trivial

theorem issue_keeps_inv {w : Word} {s t : State} (hs : Inv s) (h : issue w s = .next t) : Inv t := by
  obtain rfl | ⟨i, hd, he⟩ := issue_next h
  · exact .of_completes hs.grid (completes_complete _ rfl)
  · by_cases hi : startPhase i = .idle
    · exact .of_completes (s := s.accept w (startPhase i)) hs.grid (exec_completes hi he)
    · exact exec_keeps_inv (inv_accept hs.grid hd hi) (State.busy_accept _ _ _) hd he

theorem hostSetCmd_keeps_inv {w : Word} {s t : State} (hs : Inv s) (h : hostSetCmd w s = .next t) : Inv t := by
  obtain ⟨-, rfl⟩ | ⟨-, hi⟩ := hostSetCmd_next h
  · exact hs
  · exact issue_keeps_inv hs hi

theorem coreTurn_keeps_inv {s t : State} (hs : Inv s) (h : coreTurn s = .next t) : Inv t := by
  obtain ⟨-, rfl⟩ | ⟨hb, rfl | ⟨i, hd, he⟩⟩ := coreTurn_next h
  · exact hs
  · exact .of_completes hs.grid (completes_complete _ rfl)
  · exact exec_keeps_inv hs hb hd he

/-! ### The other agents -/

theorem hostWrite_keeps_inv {s t u : State} {r : RegName} {inDomain : Bool} (hs : Inv s)
    (h : hostWrite s r inDomain t = .next u) (hst : t.status = s.status) (hh : t.hid = s.hid)
    (hg : t.grid = s.grid) : Inv u := by
  obtain ⟨-, rfl⟩ | ⟨hb, -, rfl⟩ := hostWrite_next.mp h
  · exact hs
  · exact hs.of_idle hb hst hh (hg ▸ hs.grid)

theorem hostValue_keeps_inv {s : State} (hs : Inv s) (r : ReadReg) : Inv (hostValue s r).2 := by
  obtain ⟨_, -, -, h⟩ | ⟨-, h⟩ := hostValue_cases s r <;> rw [h]
  · exact hs
  · exact hs.outside s.host (s.draws + 1) s.grid.fails

theorem hostRead_keeps_inv {s : State} (hs : Inv s) (r : ReadReg) : Inv (hostRead s r).2 := by
  obtain ⟨v, n, h⟩ := hostRead_frame s r
  rw [h]
  exact hs.outside _ n s.grid.fails

theorem copyBinBout_keeps_inv {s t : State} (hs : Inv s) (h : copyBinBout s = .next t) : Inv t := by
  obtain rfl | ⟨b, hb⟩ := copyBinBout_next h
  · exact hostRead_keeps_inv hs .bout
  · exact hostWrite_keeps_inv (hostRead_keeps_inv hs .bout) hb rfl rfl rfl

theorem encryptToBin_keeps_inv {source : EncryptSource} {pwd : Bytes} {s t : State} (hs : Inv s)
    (h : encryptToBin source pwd s = .next t) : Inv t := by
  obtain ⟨b, hb⟩ | rfl | ⟨b, hb⟩ := encryptToBin_next h
  · exact hostWrite_keeps_inv hs hb rfl rfl rfl
  · exact hostValue_keeps_inv hs .bin
  · exact hostWrite_keeps_inv (hostValue_keeps_inv hs .bin) hb rfl rfl rfl

/-- A state in which neither EMBED nor EXTRACT runs is idle, since a running command has a phase of theirs. -/
theorem Inv.idle_of_unused {s : State} (hs : Inv s) (hm : s.embedding = false) (hx : s.extracting = false) :
    s.busy = false := by
  by_contra hb
  replace hb : s.busy = true := by simpa using hb
  have hp := hs.busy_eq_true_iff.mp hb
  cases hph : s.hid.phase <;> simp [State.embedding, State.extracting, hb, hph] at hm hx hp

theorem otherSet_unused {x y : Nat} {p : Pixel} {s t : State} (h : otherSet x y p s = .next t) :
    s.embedding = false ∧ s.extracting = false := by
  unfold otherSet at h
  split at h
  · cases h
  · next hc => simpa using hc

theorem gridSetup_unused {w h : Nat} {pixels : List Pixel} {s t : State} (hn : gridSetup w h pixels s = .next t) :
    s.embedding = false ∧ s.extracting = false := by
  unfold gridSetup at hn
  split at hn
  · split at hn <;> cases hn
  · next hc => simpa using hc

theorem otherSet_keeps_inv {x y : Nat} {p : Pixel} {s t : State} (hs : Inv s) (h : otherSet x y p s = .next t) :
    Inv t := by
  obtain ⟨hm, hx⟩ := otherSet_unused h
  obtain ⟨g, hg, rfl⟩ := otherSet_next h
  obtain ⟨-, hxw, hyh, rfl⟩ := Grid.set_ok.mp hg
  have hin : y * s.grid.w + x < s.grid.w * s.grid.h := by
    calc y * s.grid.w + x < (y + 1) * s.grid.w := by rw [Nat.add_one_mul]; omega
      _ ≤ s.grid.h * s.grid.w := Nat.mul_le_mul_right _ hyh
      _ = s.grid.w * s.grid.h := Nat.mul_comm _ _
  exact hs.of_idle (hs.idle_of_unused hm hx) rfl rfl (Grid.wf_writePixel hs.grid p hin)

/-- The grid a host sets up is canonical. -/
theorem Grid.wf_ofPixels {w h : Nat} {pixels : List Pixel} (hl : pixels.length = w * h) (fails : Bool) :
    Grid.wf { w := w, h := h, mem := Memory.ofPixels 0 pixels, fails := fails } := by
  refine ⟨Memory.wf_ofPixels 0 pixels, fun c hc => ?_⟩
  have hlt : c.1 < 3 * (0 + pixels.length) := (Memory.mem_ofPixels hc).2.1
  rwa [Nat.zero_add, hl] at hlt

theorem gridSetup_keeps_inv {w h : Nat} {pixels : List Pixel} {s t : State} (hs : Inv s)
    (hn : gridSetup w h pixels s = .next t) : Inv t := by
  obtain ⟨hm, hx⟩ := gridSetup_unused hn
  obtain ⟨hl, rfl⟩ := gridSetup_next hn
  exact hs.of_idle (hs.idle_of_unused hm hx) rfl rfl (Grid.wf_ofPixels hl _)

/-- A reset in the middle of EMBED leaves a canonical grid: the old bytes with the stream's first pixels written. -/
theorem Inv.wf_memAfterReset {s : State} (hs : Inv s) : Grid.wf { s.grid with mem := memAfterReset s } := by
  unfold memAfterReset
  split
  · next hw =>
    have he := hs.embed hw.2
    obtain ⟨frame, -, hfit, hstream⟩ := he.gate
    have hfits : s.hid.stream.length / 3 ≤ s.grid.w * s.grid.h := hstream ▸ stream_fits hfit
    exact Grid.wf_embedPixels he.before _ _
      ((Nat.lt_succ_iff.mp (Nat.mod_lt _ (Nat.succ_pos _))).trans hfits)
  · exact hs.grid

theorem doReset_keeps_inv {s : State} (hs : Inv s) : Inv s.doReset :=
  (inv_iff_of_idle rfl).mpr ⟨.inl rfl, Status.busy_zero, hs.wf_memAfterReset⟩

/-! ### Steps -/

theorem act_keeps_inv {a : Action} {rest : List Action} {s t : State} (hs : Inv s) (h : act a rest s = .next t) :
    Inv t := by
  have hr : Inv (s.withScript rest) := hs.withScript rest
  cases a with
  | setCmd w => exact hostSetCmd_keeps_inv hr h
  | setGw n | setGh n | setPwd p | setBin b | setSin y => exact hostWrite_keeps_inv hr h rfl rfl rfl
  | get r => cases h; exact hostRead_keeps_inv hr r
  | wait =>
    obtain ⟨-, rfl⟩ | ⟨-, hc⟩ := waitDone_next h
    · exact hr
    · exact coreTurn_keeps_inv hs hc
  | copyBinBout => exact copyBinBout_keeps_inv hr h
  | stopIfErr =>
    obtain ⟨-, rfl⟩ | ⟨-, rfl⟩ := stopIfErr_next (s := s.withScript rest) h
    · exact hs.withScript []
    · exact hr
  | gridSetup w hh pixels => exact gridSetup_keeps_inv hr h
  | encryptToBin source pwd => exact encryptToBin_keeps_inv hr h
  | gridGet x y =>
    obtain ⟨_, -, rfl⟩ := otherGet_next h
    exact hr.outside _ s.draws s.grid.fails
  | gridSet x y p => exact otherSet_keeps_inv hr h
  | gridFailing fails => cases h; exact hs.outside { s.host with script := rest } s.draws fails
  | reset => cases h; exact doReset_keeps_inv hr
  | coreTurn => exact coreTurn_keeps_inv hr h

theorem step_keeps_inv {s t : State} (hs : Inv s) (h : step s = .next t) : Inv t := by
  unfold step stepOf at h
  split at h
  · exact coreTurn_keeps_inv hs h
  · exact act_keeps_inv hs h

/-- Settles O43: a step is the core's turn or an action. The core's turn extends what the running command's step form
has built, by its phase; an action that writes registers or the grid finds the core idle, and a reset makes it so. -/
theorem stepKeepsInvariant : Obligations.StepKeepsInvariant :=
  fun _ _ => step_keeps_inv

end Sys2Proof.Machine
end

/-! ## Leftover hidden state is never read (10_state.md R33)

`State.live` clears the hidden state but for the part that the running command has written and may still read. A step
commutes with it: what it answers from the cleared state and from the state itself agrees, once cleared. Two idle states
that differ in their hidden state alone have one cleared state, so by induction over the steps their runs agree. -/

section
namespace Sys2Proof.Machine

/-! ### The hidden state that a running command may still read -/

/-- LATCH, where the cursor stands in the middle of the latched pixel; elsewhere the next symbol reads a pixel first
(45_extractor.md R225). -/
def liveLatch (k : Nat) (latch : Pixel) : Pixel := if k % 3 = 0 then Hidden.reset.latch else latch

@[simp] theorem liveLatch_zero (latch : Pixel) : liveLatch 0 latch = Hidden.reset.latch := rfl

@[simp] theorem liveLatch_liveLatch (k : Nat) (latch : Pixel) :
    liveLatch k (liveLatch k latch) = liveLatch k latch := by
  unfold liveLatch
  split <;> rfl

/-- The hidden state with every field cleared that the command PHASE belongs to has not written yet or reads no more
(44_embedder.md R197, 45_extractor.md R225). -/
def Hidden.live (h : Hidden) : Hidden :=
  match h.phase with
  | .idle | .embGate | .extSize => { Hidden.reset with phase := h.phase, opw := h.opw }
  | .embWrite =>
    { Hidden.reset with
      phase := h.phase, opw := h.opw, k := h.k, stream := h.stream, geom := h.geom, memBefore := h.memBefore }
  | .extHdr | .extParse =>
    { Hidden.reset with
      phase := h.phase, opw := h.opw, k := h.k, latch := liveLatch h.k h.latch, acc := h.acc, geom := h.geom }
  | .extCheck | .extPay | .extDec => { h with latch := liveLatch h.k h.latch, stream := [], memBefore := [] }

/-- The state with the hidden state cleared but for what the running command, if one runs, may still read. -/
def State.live (s : State) : State := { s with hid := if s.busy then s.hid.live else Hidden.reset }

/-- An outcome with the hidden state of its state cleared so. -/
def liveResult : Result → Result
  | .next s => .next s.live
  | .fault f => .fault f
  | .refused r => .refused r

@[simp] theorem Hidden.live_phase (h : Hidden) : h.live.phase = h.phase := by
  unfold Hidden.live
  split <;> rfl

@[simp] theorem Hidden.live_opw (h : Hidden) : h.live.opw = h.opw := by
  unfold Hidden.live
  split <;> rfl

/-- After the header parse all that EXTRACT has is live, a latch not in use excepted. -/
theorem Hidden.live_afterParse {h : Hidden} (hp : h.phase = .extCheck ∨ h.phase = .extPay ∨ h.phase = .extDec) :
    h.live = { h with latch := liveLatch h.k h.latch, stream := [], memBefore := [] } := by
  rcases hp with hp | hp | hp <;> simp [Hidden.live, hp]

@[simp] theorem Hidden.live_live (h : Hidden) : h.live.live = h.live := by
  cases hp : h.phase <;> simp [Hidden.live, hp]

@[simp] theorem State.live_grid (s : State) : s.live.grid = s.grid := rfl
@[simp] theorem State.live_host (s : State) : s.live.host = s.host := rfl
@[simp] theorem State.live_draws (s : State) : s.live.draws = s.draws := rfl
@[simp] theorem State.busy_live (s : State) : s.live.busy = s.busy := rfl

theorem State.live_hid {s : State} (hb : s.busy = true) : s.live.hid = s.hid.live := by
  simp [State.live, hb]

theorem State.live_opw {s : State} (hb : s.busy = true) : s.live.hid.opw = s.hid.opw := by
  rw [State.live_hid hb, Hidden.live_opw]

theorem State.live_phase {s : State} (hb : s.busy = true) : s.live.hid.phase = s.hid.phase := by
  rw [State.live_hid hb, Hidden.live_phase]

/-- States that show the same, and whose running commands may still read the same, are alike once cleared. -/
theorem State.live_congr {s t : State} (hv : s.visible = t.visible) (hh : t.busy = true → s.hid.live = t.hid.live) :
    s.live = t.live := by
  have hs : s.live = { s.visible with hid := if s.visible.busy then s.hid.live else Hidden.reset } := rfl
  have ht : t.live = { t.visible with hid := if t.visible.busy then t.hid.live else Hidden.reset } := rfl
  rw [hs, ht, hv]
  by_cases hb : t.busy = true
  · rw [hh hb]
  · have hb' : t.visible.busy = false := Bool.eq_false_iff.mpr hb
    simp [hb']

@[simp] theorem State.live_live (s : State) : s.live.live = s.live :=
  State.live_congr rfl fun hb => by rw [State.live_hid hb, Hidden.live_live]

/-! ### Commands: the shared operations -/

theorem liveResult_congr {s t : State} (hv : s.visible = t.visible) (hh : t.busy = true → s.hid.live = t.hid.live) :
    liveResult (.next s) = liveResult (.next t) :=
  congrArg Host.Outcome.next (State.live_congr hv hh)

@[simp] theorem liveResult_live (s : State) : liveResult (.next s.live) = liveResult (.next s) :=
  congrArg Host.Outcome.next s.live_live

/-- A completed command leaves no hidden state to read. -/
theorem liveResult_complete {s t : State} {e : Option CmdError} (hv : s.visible = t.visible) :
    liveResult (.next (s.complete e)) = liveResult (.next (t.complete e)) := by
  refine liveResult_congr ?_ (by simp)
  calc (s.complete e).visible = { s.visible with status := Status.completed e } := rfl
    _ = (t.complete e).visible := by rw [hv]; rfl

theorem liveResult_ite {c d : Prop} [Decidable c] [Decidable d] {p q p' q' : Result} (hcd : c ↔ d)
    (hp : d → liveResult p = liveResult p') (hq : ¬d → liveResult q = liveResult q') :
    liveResult (if c then p else q) = liveResult (if d then p' else q') := by
  by_cases hd : d
  · rw [if_pos hd, if_pos (hcd.mpr hd), hp hd]
  · rw [if_neg hd, if_neg (hd ∘ hcd.mp), hq hd]

theorem liveResult_operand {α : Type} {r : RegName} {c : Reg α} {j k : α → Result}
    (h : ∀ v, liveResult (j v) = liveResult (k v)) :
    liveResult (operand r c j) = liveResult (operand r c k) := by
  cases c with
  | unwritten => rfl
  | written v => exact h v

theorem liveResult_withGeometry {s t : State} {j k : State → Result} (hg : s.grid = t.grid)
    (h : liveResult (j { s with hid := { s.hid with geom := (s.grid.w, s.grid.h) } }) =
      liveResult (k { t with hid := { t.hid with geom := (t.grid.w, t.grid.h) } })) :
    liveResult (withGeometry s j) = liveResult (withGeometry t k) := by
  unfold withGeometry
  rw [hg] at h ⊢
  split
  · rfl
  · exact h

theorem liveResult_memRead {s t : State} {i : Nat} {j k : Pixel → Result} (hg : s.grid = t.grid)
    (hgeo : s.hid.geom = t.hid.geom) (h : ∀ p, liveResult (j p) = liveResult (k p)) :
    liveResult (memRead s i j) = liveResult (memRead t i k) := by
  unfold memRead
  rw [hg, hgeo]
  split
  · exact h _
  · rfl

theorem liveResult_memWrite {s t : State} {i : Nat} {p : Pixel} {j k : State → Result} (hg : s.grid = t.grid)
    (hgeo : s.hid.geom = t.hid.geom)
    (h : ∀ g, liveResult (j { s with grid := g }) = liveResult (k { t with grid := g })) :
    liveResult (memWrite s i p j) = liveResult (memWrite t i p k) := by
  unfold memWrite
  rw [hg, hgeo]
  split
  · exact h _
  · rfl

theorem finishWithBout_live (s : State) (b : Bytes) :
    liveResult (finishWithBout s.live b) = liveResult (finishWithBout s b) :=
  liveResult_ite .rfl (fun _ => liveResult_complete rfl) fun _ => rfl

theorem finishWithSout_live (s : State) (y : Syms) :
    liveResult (finishWithSout s.live y) = liveResult (finishWithSout s y) :=
  liveResult_ite .rfl (fun _ => liveResult_complete rfl) fun _ => rfl

theorem failExtract_congr {s t : State} {e : CmdError} (hv : s.visible = t.visible) :
    liveResult (failExtract e s) = liveResult (failExtract e t) := by
  refine liveResult_complete ?_
  calc s.drawKind.drawPlen.drawBout.visible = s.visible.drawKind.drawPlen.drawBout := rfl
    _ = t.drawKind.drawPlen.drawBout.visible := by rw [hv]; rfl

/-! ### One-step commands -/

theorem buildFrameCommand_live (k : Kind) (s : State) :
    liveResult (buildFrameCommand k s.live) = liveResult (buildFrameCommand k s) :=
  liveResult_operand fun _ =>
    liveResult_ite .rfl (fun _ => liveResult_complete rfl) fun _ => finishWithBout_live s _

theorem execParseHeader_live (s : State) :
    liveResult (execParseHeader s.live) = liveResult (execParseHeader s) := by
  refine liveResult_operand fun hd => liveResult_ite .rfl (fun _ => liveResult_complete rfl) fun _ => ?_
  split <;> exact liveResult_complete rfl

/-- A command without a phase of its own reads no hidden state. -/
theorem exec_live_of_oneStep {i : Instr} (hi : startPhase i = .idle) (s : State) :
    liveResult (exec i s.live) = liveResult (exec i s) := by
  cases i with
  | nop => exact liveResult_complete rfl
  | pack align =>
    exact liveResult_ite .rfl (fun _ => liveResult_complete rfl) fun _ =>
      liveResult_operand fun b => finishWithSout_live s _
  | unpack => exact liveResult_operand fun y => finishWithBout_live s _
  | buildFrameU => exact buildFrameCommand_live .unencrypted s
  | buildFrameE => exact buildFrameCommand_live .encrypted s
  | parseHeader => exact execParseHeader_live s
  | maxPayload =>
    exact liveResult_operand fun w => liveResult_operand fun h => liveResult_complete rfl
  | checkCapacity =>
    exact liveResult_operand fun frame => liveResult_operand fun w => liveResult_operand fun h =>
      liveResult_ite .rfl (fun _ => liveResult_complete rfl) fun _ => liveResult_complete rfl
  | embed | extract | extractKey => cases hi

/-! ### EMBED and EXTRACT -/

section
variable {s : State} (hb : s.busy = true)
include hb

theorem embGateStep_live : liveResult (embGateStep s.live) = liveResult (embGateStep s) := by
  refine liveResult_operand fun frame => liveResult_withGeometry rfl (liveResult_ite .rfl (fun _ => ?_) fun _ => ?_)
  · exact liveResult_complete rfl
  · exact liveResult_congr rfl fun _ => by simp [Hidden.live, State.live_opw hb]

theorem embWriteStep_live (hp : s.hid.phase = .embWrite) :
    liveResult (embWriteStep s.live) = liveResult (embWriteStep s) := by
  have hl : s.live.hid = { Hidden.reset with
      phase := s.hid.phase, opw := s.hid.opw, k := s.hid.k, stream := s.hid.stream, geom := s.hid.geom,
      memBefore := s.hid.memBefore } := by
    simp [State.live_hid hb, Hidden.live, hp]
  refine liveResult_ite (by rw [hl]) (fun _ => ?_) fun _ => ?_
  · exact liveResult_complete rfl
  · rw [hl]
    refine liveResult_memRead rfl (by simp [hl]) fun p => liveResult_memWrite rfl (by simp [hl]) fun g => ?_
    exact liveResult_congr rfl fun _ => by simp [Hidden.live, hl, hp]

theorem extSizeStep_live : liveResult (extSizeStep s.live) = liveResult (extSizeStep s) := by
  refine liveResult_withGeometry rfl (liveResult_ite .rfl (fun _ => ?_) fun _ => ?_)
  · exact failExtract_congr rfl
  · exact liveResult_congr rfl fun _ => by simp [Hidden.live, State.live_opw hb]

/-- A scan reads the latch only where it is live, and latches the pixel it has read. -/
theorem nextSymbol_live (hp : s.hid.phase = .extHdr ∨ s.hid.phase = .extPay) {k : State → Result}
    (h : ∀ p, liveResult (k (s.live.collect p)) = liveResult (k (s.collect p))) :
    liveResult (nextSymbol s.live k) = liveResult (nextSymbol s k) := by
  obtain ⟨hk, hgeo, hlatch⟩ : s.live.hid.k = s.hid.k ∧ s.live.hid.geom = s.hid.geom ∧
      s.live.hid.latch = liveLatch s.hid.k s.hid.latch := by
    rcases hp with hp | hp <;> simp [State.live_hid hb, Hidden.live, hp]
  refine liveResult_ite (by rw [hk]) (fun _ => ?_) fun hmod => ?_
  · rw [hk]
    exact liveResult_memRead rfl hgeo h
  · rw [hlatch, liveLatch, if_neg hmod]
    exact h _

theorem extHdrStep_live (hp : s.hid.phase = .extHdr) :
    liveResult (extHdrStep s.live) = liveResult (extHdrStep s) := by
  refine nextSymbol_live hb (.inl hp) fun p => ?_
  have hk : (s.live.collect p).hid.k = (s.collect p).hid.k := by simp [State.live_hid hb, Hidden.live, hp]
  rw [hk]
  split
  all_goals exact liveResult_congr rfl fun _ => by simp [Hidden.live, State.live_hid hb, hp]

theorem extParseStep_live (hp : s.hid.phase = .extParse) :
    liveResult (extParseStep s.live) = liveResult (extParseStep s) := by
  have hacc : s.live.hid.acc = s.hid.acc := by simp [State.live_hid hb, Hidden.live, hp]
  simp only [extParseStep, hacc]
  split
  · exact failExtract_congr rfl
  · exact liveResult_congr rfl fun _ => by simp [Hidden.live, State.live_hid hb, hp]

theorem extCheckStep_live (hp : s.hid.phase = .extCheck) :
    liveResult (extCheckStep s.live) = liveResult (extCheckStep s) := by
  have hl := (State.live_hid hb).trans (Hidden.live_afterParse (by simp [hp]))
  refine liveResult_ite (by rw [hl]) (fun _ => failExtract_congr rfl) fun _ =>
    liveResult_ite .rfl (fun _ => ?_) fun _ => ?_
  all_goals exact liveResult_congr rfl fun _ => by simp [Hidden.live, hl]

theorem extPayStep_live (hp : s.hid.phase = .extPay) :
    liveResult (extPayStep s.live) = liveResult (extPayStep s) := by
  have hl := (State.live_hid hb).trans (Hidden.live_afterParse (by simp [hp]))
  refine liveResult_ite (by rw [hl]) (fun _ => ?_) fun _ => ?_
  · exact liveResult_congr rfl fun _ => by simp [Hidden.live, hl]
  · exact nextSymbol_live hb (.inr hp) fun p => liveResult_congr rfl fun _ => by simp [Hidden.live, hl, hp]

theorem extDecStep_live (key : Bool) (hp : s.hid.phase = .extDec) :
    liveResult (extDecStep key s.live) = liveResult (extDecStep key s) := by
  have hl := (State.live_hid hb).trans (Hidden.live_afterParse (by simp [hp]))
  simp only [extDecStep, hl]
  split
  · exact finishWithBout_live s _
  · exact failExtract_congr rfl
  · refine liveResult_operand fun pwd => ?_
    split
    · exact failExtract_congr rfl
    · exact finishWithBout_live s _

theorem execEmbed_live : liveResult (execEmbed s.live) = liveResult (execEmbed s) := by
  simp only [execEmbed, State.live_phase hb]
  split
  · next hp => exact embWriteStep_live hb hp
  all_goals exact embGateStep_live hb

theorem extractStep_live (key : Bool) : liveResult (extractStep key s.live) = liveResult (extractStep key s) := by
  simp only [extractStep, State.live_phase hb]
  split
  · next hp => exact extHdrStep_live hb hp
  · next hp => exact extParseStep_live hb hp
  · next hp => exact extCheckStep_live hb hp
  · next hp => exact extPayStep_live hb hp
  · next hp => exact extDecStep_live hb key hp
  all_goals exact extSizeStep_live hb

/-- A command reads no hidden state but what it has written itself. -/
theorem exec_live (i : Instr) : liveResult (exec i s.live) = liveResult (exec i s) := by
  cases i with
  | embed => exact execEmbed_live hb
  | extract => exact extractStep_live hb false
  | extractKey => exact extractStep_live hb true
  | nop | pack _ | unpack | buildFrameU | buildFrameE | parseHeader | maxPayload | checkCapacity =>
    exact exec_live_of_oneStep rfl s

end

/-! ### The core's turn and the other agents -/

/-- A command starts with no hidden state to read but its word and its phase. -/
theorem State.live_accept (s : State) (w : Word) (i : Instr) :
    (s.live.accept w (startPhase i)).live = (s.accept w (startPhase i)).live :=
  State.live_congr rfl fun _ => by cases i <;> rfl

theorem issue_live (w : Word) (s : State) : liveResult (issue w s.live) = liveResult (issue w s) := by
  unfold issue
  split
  · exact liveResult_complete rfl
  · next i _ =>
    calc liveResult (exec i (s.live.accept w (startPhase i)))
        = liveResult (exec i (s.live.accept w (startPhase i)).live) := (exec_live (State.busy_accept ..) i).symm
      _ = liveResult (exec i (s.accept w (startPhase i)).live) := by rw [State.live_accept]
      _ = liveResult (exec i (s.accept w (startPhase i))) := exec_live (State.busy_accept ..) i

theorem hostSetCmd_live (w : Word) (s : State) : liveResult (hostSetCmd w s.live) = liveResult (hostSetCmd w s) :=
  liveResult_ite .rfl (fun _ => liveResult_live s) fun _ => issue_live w s

theorem coreTurn_live (s : State) : liveResult (coreTurn s.live) = liveResult (coreTurn s) := by
  refine liveResult_ite .rfl (fun hb => ?_) fun _ => liveResult_live s
  rw [State.live_opw hb]
  split
  · exact liveResult_complete rfl
  · exact exec_live hb _

theorem hostWrite_live (s t : State) (r : RegName) (inDomain : Bool) :
    liveResult (hostWrite s.live r inDomain t.live) = liveResult (hostWrite s r inDomain t) :=
  liveResult_ite .rfl (fun _ => liveResult_live s) fun _ =>
    liveResult_ite .rfl (fun _ => liveResult_live t) fun _ => rfl

theorem hostSetBin_live (s : State) (b : Bytes) : liveResult (hostSetBin s.live b) = liveResult (hostSetBin s b) :=
  hostWrite_live s { s with bin := .written b } .bin _

theorem storedValue_live (s : State) (r : ReadReg) : storedValue s.live r = storedValue s r := by
  cases r <;> rfl

theorem freeValue_live (s : State) (r : ReadReg) : freeValue s.live r = freeValue s r := by
  cases r <;> rfl

theorem hostValue_live (s : State) (r : ReadReg) :
    hostValue s.live r = ((hostValue s r).1, (hostValue s r).2.live) := by
  simp only [hostValue, State.busy_live, storedValue_live, freeValue_live]
  split <;> rfl

theorem hostRead_live (s : State) (r : ReadReg) :
    hostRead s.live r = ((hostRead s r).1, (hostRead s r).2.live) := by
  simp only [hostRead, hostValue_live]
  rfl

theorem copyBinBout_live (s : State) : liveResult (copyBinBout s.live) = liveResult (copyBinBout s) := by
  simp only [copyBinBout, hostRead_live]
  obtain ⟨v, t⟩ := hostRead s .bout
  cases v with
  | bytes b => exact hostSetBin_live t b
  | _ => simp

theorem encryptToBin_live (source : EncryptSource) (pwd : Bytes) (s : State) :
    liveResult (encryptToBin source pwd s.live) = liveResult (encryptToBin source pwd s) := by
  cases source with
  | literal b => exact hostSetBin_live s _
  | bin =>
    simp only [encryptToBin, hostValue_live]
    obtain ⟨v, t⟩ := hostValue s .bin
    cases v with
    | bytes b => exact hostSetBin_live t _
    | _ => simp

theorem stopIfErr_live (s : State) : liveResult (stopIfErr s.live) = liveResult (stopIfErr s) :=
  liveResult_ite .rfl (fun _ => liveResult_live (s.withScript [])) fun _ => liveResult_live s

@[simp] theorem State.embedding_live (s : State) : s.live.embedding = s.embedding := by
  cases hb : s.busy <;> simp [State.embedding, State.live_hid, hb]

@[simp] theorem State.extracting_live (s : State) : s.live.extracting = s.extracting := by
  cases hb : s.busy <;> simp [State.extracting, State.live_hid, hb]

theorem otherGet_live (x y : Nat) (s : State) : liveResult (otherGet x y s.live) = liveResult (otherGet x y s) := by
  refine liveResult_ite (by rw [State.embedding_live]) (fun _ => rfl) fun _ => ?_
  rw [State.live_grid]
  split
  · next p _ =>
    exact liveResult_live { s with host := { s.host with lastRead := some (.pixel p) } }
  · rfl

theorem otherSet_live (x y : Nat) (p : Pixel) (s : State) :
    liveResult (otherSet x y p s.live) = liveResult (otherSet x y p s) := by
  refine liveResult_ite (by rw [State.embedding_live, State.extracting_live]) (fun _ => rfl) fun _ => ?_
  rw [State.live_grid]
  split
  · next g _ => exact liveResult_live { s with grid := g }
  · rfl

theorem gridSetup_live (w h : Nat) (pixels : List Pixel) (s : State) :
    liveResult (gridSetup w h pixels s.live) = liveResult (gridSetup w h pixels s) := by
  refine liveResult_ite (by rw [State.embedding_live, State.extracting_live]) (fun _ => rfl) fun _ =>
    liveResult_ite .rfl (fun _ => ?_) fun _ => rfl
  exact liveResult_live { s with grid := { s.grid with w := w, h := h, mem := Memory.ofPixels 0 pixels } }

/-- A reset reads the stream and the old bytes only while EMBED writes. -/
theorem memAfterReset_live (s : State) : memAfterReset s.live = memAfterReset s := by
  by_cases hb : s.busy = true
  · by_cases hp : s.hid.phase = .embWrite
    · simp [memAfterReset, State.live_hid hb, Hidden.live, hb, hp]
    · simp [memAfterReset, State.live_hid hb, hp]
  · simp [memAfterReset, hb]

theorem State.doReset_live (s : State) : s.live.doReset = s.doReset := by
  simp only [State.doReset, memAfterReset_live]
  rfl

/-! ### Steps and runs -/

theorem act_live (a : Action) (rest : List Action) (s : State) :
    liveResult (act a rest s.live) = liveResult (act a rest s) := by
  cases a with
  | setCmd w => exact hostSetCmd_live w (s.withScript rest)
  | setGw n => exact hostWrite_live (s.withScript rest) { s.withScript rest with gw := .written n } .gw _
  | setGh n => exact hostWrite_live (s.withScript rest) { s.withScript rest with gh := .written n } .gh _
  | setPwd p => exact hostWrite_live (s.withScript rest) { s.withScript rest with pwd := .written p } .pwd _
  | setBin b => exact hostSetBin_live (s.withScript rest) b
  | setSin y => exact hostWrite_live (s.withScript rest) { s.withScript rest with sin := .written y } .sin _
  | get r =>
    have hread := hostRead_live (s.withScript rest) r
    exact congrArg Host.Outcome.next ((congrArg (State.live ·.2) hread).trans (State.live_live _))
  | wait =>
    exact liveResult_ite .rfl (fun _ => liveResult_live (s.withScript rest)) fun _ => coreTurn_live s
  | copyBinBout => exact copyBinBout_live (s.withScript rest)
  | stopIfErr => exact stopIfErr_live (s.withScript rest)
  | gridSetup w h pixels => exact gridSetup_live w h pixels (s.withScript rest)
  | encryptToBin source pwd => exact encryptToBin_live source pwd (s.withScript rest)
  | gridGet x y => exact otherGet_live x y (s.withScript rest)
  | gridSet x y p => exact otherSet_live x y p (s.withScript rest)
  | gridFailing fails =>
    exact liveResult_live { s.withScript rest with grid := { s.grid with fails := fails } }
  | reset => exact congrArg (liveResult <| .next ·) (State.doReset_live (s.withScript rest))
  | coreTurn => exact coreTurn_live (s.withScript rest)

theorem step_live (s : State) : liveResult (step s.live) = liveResult (step s) := by
  simp only [step, stepOf, State.live_host]
  split
  · exact coreTurn_live s
  · exact act_live _ _ s

/-- Outcomes that are alike once cleared are the same stop or next states. -/
theorem eq_or_next_of_liveResult_eq {p q : Result} (h : liveResult p = liveResult q) :
    p = q ∨ ∃ s t, p = .next s ∧ q = .next t ∧ s.live = t.live := by
  cases p with
  | next s =>
    cases q with
    | next t => exact .inr ⟨s, t, rfl, rfl, Host.Outcome.next.inj h⟩
    | fault | refused => cases h
  | fault f => cases q <;> cases h; exact .inl rfl
  | refused r => cases q <;> cases h; exact .inl rfl

theorem run_succ_of_next {M : Host.Core} {s t : M.State} {n : Nat} (h : M.step s = .next t) :
    M.run (n + 1) s = M.run n t := by
  rw [Host.Core.run, h]

theorem run_succ_of_step_eq {M : Host.Core} {s t : M.State} {n : Nat} (h : M.step s = M.step t) :
    M.run (n + 1) s = M.run (n + 1) t := by
  rw [Host.Core.run, h, Host.Core.run]

/-- Runs from states that are alike once cleared stay alike. -/
theorem run_live {s t : State} (n : Nat) (h : s.live = t.live) :
    liveResult (Host.Core.run core n s) = liveResult (Host.Core.run core n t) := by
  induction n generalizing s t with
  | zero => exact congrArg Host.Outcome.next h
  | succ n ih =>
    have hstep : liveResult (step s) = liveResult (step t) := by rw [← step_live s, h, step_live t]
    obtain heq | ⟨s', t', hs, ht, hst⟩ := eq_or_next_of_liveResult_eq hstep
    · exact congrArg liveResult (run_succ_of_step_eq (M := core) heq)
    · calc liveResult (Host.Core.run core (n + 1) s)
          = liveResult (Host.Core.run core n s') := congrArg liveResult (run_succ_of_next (M := core) hs)
        _ = liveResult (Host.Core.run core n t') := ih hst
        _ = liveResult (Host.Core.run core (n + 1) t) := congrArg liveResult (run_succ_of_next (M := core) ht).symm

theorem visibleResult_liveResult (r : Result) : visibleResult (liveResult r) = visibleResult r := by
  cases r <;> rfl

/-- Settles O47: an idle state has no hidden state that is live, so both runs start from one cleared state. -/
theorem leftoverHiddenStateIsNeverRead : Obligations.LeftoverHiddenStateIsNeverRead := by
  intro s h n hb
  have hidle : { s with hid := h }.live = s.live := State.live_congr rfl fun hb' => by simp [hb] at hb'
  calc visibleResult (Host.Core.run core n { s with hid := h })
      = visibleResult (liveResult (Host.Core.run core n { s with hid := h })) := (visibleResult_liveResult _).symm
    _ = visibleResult (liveResult (Host.Core.run core n s)) := congrArg visibleResult (run_live n hidle)
    _ = visibleResult (Host.Core.run core n s) := visibleResult_liveResult _

end Sys2Proof.Machine
end

/-! ## The core's accesses to the grid (20_memory.md R62, R65, R80)

A command stops on an UNWRITTEN operand, or, EMBED and EXTRACT only, for the collaborator. The invariant keeps the cursor
of both on a pixel that the grid has, under the geometry sampled, so an answering collaborator answers every call. No
command but EMBED writes. -/

section
namespace Sys2Proof.Machine

/-! ### Calls inside the grid -/

/-- A command stops on an UNWRITTEN operand, or for the collaborator, which only a command of several steps calls. -/
theorem exec_fault {i : Instr} {s : State} {f : Fault} (h : exec i s = .fault f) :
    (∃ r, f = .unwrittenOperand r) ∨ (f = .collaboratorFailure ∧ startPhase i ≠ .idle) := by
  cases i with
  | nop => cases h
  | pack _ => exact .inl ⟨_, (execPack_fault h).2⟩
  | unpack => exact .inl ⟨_, (execUnpack_fault h).2⟩
  | buildFrameU => exact .inl ⟨_, (buildFrameCommand_fault (k := .unencrypted) h).2⟩
  | buildFrameE => exact .inl ⟨_, (buildFrameCommand_fault (k := .encrypted) h).2⟩
  | parseHeader => exact .inl ⟨_, (execParseHeader_fault h).2⟩
  | maxPayload => obtain ⟨-, hf⟩ | ⟨-, hf⟩ := execMaxPayload_fault h <;> exact .inl ⟨_, hf⟩
  | checkCapacity =>
    obtain ⟨-, hf⟩ | ⟨-, hf⟩ | ⟨-, hf⟩ := execCheckCapacity_fault h <;> exact .inl ⟨_, hf⟩
  | embed =>
    obtain hf | ⟨-, hf⟩ := execEmbed_fault h
    · exact .inr ⟨hf, by simp [startPhase]⟩
    · exact .inl ⟨_, hf⟩
  | extract =>
    obtain hf | ⟨-, -, -, -, hf⟩ := extractStep_fault (key := false) h
    · exact .inr ⟨hf, by simp [startPhase]⟩
    · exact .inl ⟨_, hf⟩
  | extractKey =>
    obtain hf | ⟨-, -, -, -, hf⟩ := extractStep_fault (key := true) h
    · exact .inr ⟨hf, by simp [startPhase]⟩
    · exact .inl ⟨_, hf⟩

theorem withGeometry_answers {s : State} (k : State → Result) (hf : s.grid.fails = false) :
    withGeometry s k = k { s with hid := { s.hid with geom := (s.grid.w, s.grid.h) } } := by
  simp [withGeometry, hf]

/-- One symbol of a scan that stays inside the grid is always collected. -/
theorem nextSymbol_inside {s : State} (k : State → Result) (hf : s.grid.fails = false)
    (hg : s.hid.geom = (s.grid.w, s.grid.h)) (hk : s.hid.k < 3 * (s.grid.w * s.grid.h)) :
    ∃ p, nextSymbol s k = k (s.collect p) := by
  unfold nextSymbol
  split
  · exact ⟨_, memRead_inside _ hf hg (Nat.div_lt_of_lt_mul hk)⟩
  · exact ⟨_, rfl⟩

section
variable {s : State} (hs : Inv s) (hf : s.grid.fails = false)
include hs hf

theorem embWriteStep_answers (hp : s.hid.phase = .embWrite) : ∃ t, embWriteStep s = .next t := by
  have he := hs.embed hp
  unfold embWriteStep
  split
  · exact ⟨_, rfl⟩
  · next hk =>
    obtain ⟨n, -, hin, hkn, -⟩ := he.cursor_inside hk
    have hpix : s.hid.k / 3 < s.grid.w * s.grid.h := by omega
    rw [memRead_inside _ hf he.geometry hpix, memWrite_inside _ _ hf he.geometry hpix]
    exact ⟨_, rfl⟩

theorem execEmbed_ne_collaboratorFailure : execEmbed s ≠ .fault .collaboratorFailure := by
  intro h
  obtain ⟨hp, he⟩ | ⟨-, he⟩ := execEmbed_cases s <;> rw [he] at h
  · obtain ⟨t, ht⟩ := embWriteStep_answers hs hf hp
    rw [ht] at h
    cases h
  · obtain ⟨-, hr⟩ | ⟨frame, -, h⟩ := operand_fault.mp h
    · cases hr
    · rw [withGeometry_answers _ hf] at h
      split at h <;> cases h

theorem extHdrStep_answers (hp : s.hid.phase = .extHdr) : ∃ t, extHdrStep s = .next t := by
  obtain ⟨hgeo, hsize⟩ := hs.geometry (by simp [hp, Phase.scanning])
  obtain ⟨hk, -⟩ : s.hid.k < headerSyms ∧ _ := by simpa only [ExtractProgress, hp] using hs.extract
  obtain ⟨p, hn⟩ := nextSymbol_inside _ hf hgeo (hk.trans_le hsize)
  exact ⟨_, hn⟩

theorem extPayStep_answers (hp : s.hid.phase = .extPay) : ∃ t, extPayStep s = .next t := by
  obtain ⟨hgeo, -⟩ := hs.geometry (by simp [hp, Phase.scanning])
  obtain ⟨-, hfit, hle, -⟩ : HeaderKnown s ∧ s.hid.needed ≤ 3 * (s.grid.w * s.grid.h) ∧
      s.hid.k ≤ s.hid.needed ∧ _ := by simpa only [ExtractProgress, hp] using hs.extract
  unfold extPayStep
  split
  · exact ⟨_, rfl⟩
  · next hk =>
    obtain ⟨p, hn⟩ := nextSymbol_inside (fun t => .next t) hf hgeo (by omega)
    exact ⟨_, hn⟩

theorem extractStep_ne_collaboratorFailure (key : Bool) : extractStep key s ≠ .fault .collaboratorFailure := by
  intro h
  obtain ⟨-, he⟩ | ⟨hp, he⟩ | ⟨-, he⟩ | ⟨-, he⟩ | ⟨hp, he⟩ | ⟨-, he⟩ := extractStep_cases key s <;> rw [he] at h
  · rw [extSizeStep, withGeometry_answers _ hf] at h
    split at h <;> cases h
  · obtain ⟨t, ht⟩ := extHdrStep_answers hs hf hp
    rw [ht] at h
    cases h
  · unfold extParseStep at h
    split at h <;> cases h
  · unfold extCheckStep at h
    split at h
    · cases h
    · split at h <;> cases h
  · obtain ⟨t, ht⟩ := extPayStep_answers hs hf hp
    rw [ht] at h
    cases h
  · obtain ⟨-, -, -, hr⟩ := extDecStep_fault h
    cases hr

/-- A step of a command from a state that meets the invariant stops on an UNWRITTEN operand only. -/
theorem exec_fault_of_inv {i : Instr} {f : Fault} (h : exec i s = .fault f) : ∃ r, f = .unwrittenOperand r := by
  obtain hu | ⟨rfl, hi⟩ := exec_fault h
  · exact hu
  · cases i with
    | embed => exact absurd h (execEmbed_ne_collaboratorFailure hs hf)
    | extract => exact absurd h (extractStep_ne_collaboratorFailure hs hf false)
    | extractKey => exact absurd h (extractStep_ne_collaboratorFailure hs hf true)
    | nop | pack _ | unpack | buildFrameU | buildFrameE | parseHeader | maxPayload | checkCapacity =>
      exact absurd rfl hi

theorem coreTurn_fault_of_inv {f : Fault} (h : coreTurn s = .fault f) : ∃ r, f = .unwrittenOperand r := by
  unfold coreTurn at h
  split at h
  · split at h
    · cases h
    · exact exec_fault_of_inv hs hf h
  · cases h

/-- The first step of a command: EMBED and EXTRACT start in a state that meets the invariant, and no other command calls
the collaborator. -/
theorem issue_fault_of_inv {w : Word} {f : Fault} (h : issue w s = .fault f) : ∃ r, f = .unwrittenOperand r := by
  unfold issue at h
  split at h
  · cases h
  · next i hd =>
    obtain hu | ⟨-, hi⟩ := exec_fault h
    · exact hu
    · exact exec_fault_of_inv (inv_accept hs.grid hd hi) hf h

theorem hostSetCmd_fault_of_inv {w : Word} {f : Fault} (h : hostSetCmd w s = .fault f) :
    ∃ r, f = .unwrittenOperand r := by
  unfold hostSetCmd at h
  split at h
  · cases h
  · exact issue_fault_of_inv hs hf h

end

/-- Settles O44: the core's turn and a CMD write from the invariant stop on an UNWRITTEN operand only. -/
theorem coreStaysInsideTheGrid : Obligations.CoreStaysInsideTheGrid := by
  intro s f hs hf hscript h
  obtain hnil | ⟨w, rest, hcmd⟩ := hscript
  · rw [step, stepOf, hnil] at h
    exact coreTurn_fault_of_inv hs hf h
  · rw [step_of_script hcmd] at h
    exact hostSetCmd_fault_of_inv (hs.withScript rest) hf h

/-! ### The grid in the other commands' frames (20_memory.md R80) -/

/-- Settles O39: a command that is not EMBED leaves the grid out of its frame. -/
theorem onlyEmbedWritesTheGrid : Obligations.OnlyEmbedWritesTheGrid := by
  intro i s t h hi
  cases i with
  | embed => exact absurd rfl hi
  | extract => obtain ⟨_, _, _, _, _, _, rfl⟩ := extractStep_frame (key := false) h; rfl
  | extractKey => obtain ⟨_, _, _, _, _, _, rfl⟩ := extractStep_frame (key := true) h; rfl
  | nop | pack _ | unpack | buildFrameU | buildFrameE | parseHeader | maxPayload | checkCapacity =>
    exact (exec_completes rfl h).grid

end Sys2Proof.Machine
end

/-! ## Other agents' accesses while a command runs, and the laws of a pixel (20_memory.md R61, R64, R75) -/

section
namespace Sys2Proof.Machine

/-! ### Exclusive access -/

theorem State.embedding_iff {s : State} :
    s.embedding = true ↔ s.busy = true ∧ (s.hid.phase = .embGate ∨ s.hid.phase = .embWrite) := by
  simp [State.embedding]

theorem State.extracting_iff {s : State} :
    s.extracting = true ↔ s.busy = true ∧ (s.hid.phase = .extSize ∨ s.hid.phase.scanning = true) := by
  unfold State.extracting
  cases s.hid.phase <;> simp [Phase.scanning]

theorem State.embedding_of_extracting {s : State} (h : s.extracting = true) : s.embedding = false := by
  obtain ⟨-, hp⟩ := State.extracting_iff.mp h
  unfold State.embedding
  cases hph : s.hid.phase <;> simp [hph, Phase.scanning] at hp ⊢

theorem otherGet_race {s : State} (x y : Nat) (h : s.embedding = true) : otherGet x y s = .fault .gridRace := by
  simp [otherGet, h]

theorem otherSet_race {s : State} (x y : Nat) (p : Pixel) (h : s.embedding = true ∨ s.extracting = true) :
    otherSet x y p s = .fault .gridRace := by
  simp [otherSet, h]

theorem otherGet_inside {s : State} {x y : Nat} (h : s.embedding = false) (hf : s.grid.fails = false)
    (hx : x < s.grid.w) (hy : y < s.grid.h) :
    otherGet x y s = .next { s with host :=
      { s.host with lastRead := some (.pixel (Memory.readPixel s.grid.mem (y * s.grid.w + x))) } } := by
  have hget := Grid.get_ok.mpr ⟨hf, hx, hy, rfl⟩
  simp [otherGet, h, hget]

/-- Settles O51: the phases named are those in which EMBED and EXTRACT run, and the access is the step's action. -/
theorem exclusiveAccess : Obligations.ExclusiveAccess := by
  intro s rest
  refine ⟨fun hb hp x y p => ?embed, fun hb hp x y p => ?extract⟩
  case embed =>
    have he : (s.withScript rest).embedding = true := State.embedding_iff.mpr ⟨hb, hp⟩
    refine ⟨fun hs => ?_, fun hs => ?_⟩ <;> rw [step_of_script hs]
    · exact otherGet_race x y he
    · exact otherSet_race x y p (.inl he)
  case extract =>
    have he : (s.withScript rest).extracting = true := State.extracting_iff.mpr ⟨hb, hp⟩
    refine ⟨fun hs => ?_, fun hs hf hx hy => ?_⟩ <;> rw [step_of_script hs]
    · exact otherSet_race x y p (.inr he)
    · exact otherGet_inside (s := s.withScript rest) (State.embedding_of_extracting he) hf hx hy

/-! ### The laws of a pixel -/

/-- Writing what is there changes nothing: the canonical form lists each memory in one way. -/
theorem Memory.write_read {m : Memory} (h : Memory.wf m) (a : Nat) : Memory.write m a (Memory.read m a) = m := by
  refine Memory.ext_read (Memory.wf_write h _ _) h fun x => ?_
  by_cases hx : x = a
  · rw [hx, Memory.read_write_self h]
  · exact Memory.read_write_other m _ hx

theorem Memory.writePixel_readPixel {m : Memory} (h : Memory.wf m) (i : Nat) :
    Memory.writePixel m i (Memory.readPixel m i) = m := by
  simp only [Memory.writePixel, Memory.readPixel, Memory.write_read h]

/-- The coordinates of a pixel are determined by its index (00_scope.md R15). -/
theorem pixel_index_injective {w x y x' y' : Nat} (hx : x < w) (hx' : x' < w) (h : y' * w + x' = y * w + x) :
    (x', y') = (x, y) := by
  have hxx : x' = x := by simpa [Nat.mod_eq_of_lt, hx, hx'] using congrArg (· % w) h
  subst hxx
  have hyy : y' = y := Nat.eq_of_mul_eq_mul_right (Nat.zero_lt_of_lt hx) (Nat.add_right_cancel h)
  rw [hyy]

theorem pixel_index_lt {w h x y : Nat} (hx : x < w) (hy : y < h) : y * w + x < w * h :=
  calc y * w + x < (y + 1) * w := by rw [Nat.add_one_mul]; omega
    _ ≤ h * w := Nat.mul_le_mul_right _ hy
    _ = w * h := Nat.mul_comm _ _

/-- A write of a pixel leaves what a call for any other coordinates answers, inside the grid or outside it. -/
theorem Grid.get_writePixel_other {g : Grid} {x y x' y' : Nat} (p : Pixel) (hx : x < g.w)
    (hne : (x', y') ≠ (x, y)) :
    Grid.get { g with mem := Memory.writePixel g.mem (y * g.w + x) p } x' y' = g.get x' y' := by
  by_cases hin : x' < g.w ∧ y' < g.h
  · have hi : y' * g.w + x' ≠ y * g.w + x := fun h => hne (pixel_index_injective hx hin.1 h)
    simp [Grid.get, Memory.readPixel_writePixel_other _ _ hi]
  · simp [Grid.get, hin]

/-- Settles O52: the set writes pixel `y*W + x` of a canonical memory and nothing else. -/
theorem pixelSetThenGet : Obligations.PixelSetThenGet := by
  intro g g' x y p hg hset
  obtain ⟨hf, hx, hy, rfl⟩ := Grid.set_ok.mp hset
  have hread : Memory.readPixel (Memory.writePixel g.mem (y * g.w + x) p) (y * g.w + x) = p :=
    Memory.readPixel_writePixel_self hg.1 _ _
  have hagain : Memory.writePixel (Memory.writePixel g.mem (y * g.w + x) p) (y * g.w + x) p =
      Memory.writePixel g.mem (y * g.w + x) p := by
    simpa only [hread] using Memory.writePixel_readPixel (Memory.wf_writePixel hg.1 (y * g.w + x) p) (y * g.w + x)
  refine ⟨Grid.get_ok.mpr ⟨hf, hx, hy, hread.symm⟩, Grid.set_ok.mpr ⟨hf, hx, hy, ?_⟩,
    Grid.wf_writePixel hg p (pixel_index_lt hx hy), fun x' y' => Grid.get_writePixel_other p hx⟩
  simp only [hagain]

end Sys2Proof.Machine
end

/-! ## Command words: their fields, decoding and legality (30_encoding.md R91, R97 to R101)

A word is the number its fields add up to. So a word without reserved bits is built from its other fields, and decoding,
which reads the fields, inverts encoding: `decode_eq_ok_iff`, from which the statements about legal words follow. -/

section
namespace Sys2Proof

/-! ### A word and its fields -/

/-- The fields stand in disjoint bits, so a word's number is their sum (30_encoding.md R91). -/
theorem toNat_commandWord (a : BitVec 8) (f : Bool) (op : BitVec 4) :
    (commandWord a f op).toNat = 256 * a.toNat + 16 * f.toNat + op.toNat := by
  have h : (commandWord a f op).toNat = (a.toNat <<< 3 <<< 1 ||| f.toNat) <<< 4 ||| op.toNat := by
    simp only [commandWord, BitVec.toNat_append, BitVec.toNat_ofBool, BitVec.toNat_ofNat, Nat.or_zero, Nat.zero_mod,
      Nat.zero_shiftLeft, Nat.zero_or]
  rw [h, ← Nat.shiftLeft_add_eq_or_of_lt op.isLt, ← Nat.shiftLeft_add_eq_or_of_lt (b := f.toNat) (Bool.toNat_lt f)]
  simp only [Nat.shiftLeft_eq]
  omega

theorem Word.toNat_op (w : Word) : (Word.op w).toNat = w.toNat % 16 := by
  simp [Word.op]

theorem Word.toNat_flag (w : Word) : (Word.flag w).toNat = w.toNat / 16 % 2 := by
  simp [Word.flag, BitVec.getLsbD, Nat.toNat_testBit]

theorem Word.toNat_rsvd1 (w : Word) : (Word.rsvd1 w).toNat = w.toNat / 32 % 8 := by
  simp [Word.rsvd1, Nat.shiftRight_eq_div_pow]

theorem Word.toNat_align (w : Word) : (Word.align w).toNat = w.toNat / 256 % 256 := by
  simp [Word.align, Nat.shiftRight_eq_div_pow]

theorem Word.toNat_rsvd0 (w : Word) : (Word.rsvd0 w).toNat = w.toNat / 65536 % 65536 := by
  simp [Word.rsvd0, Nat.shiftRight_eq_div_pow]

/-- A word whose reserved fields are 0 is built from its other three fields. -/
theorem commandWord_fields {w : Word} (h0 : Word.rsvd0 w = 0) (h1 : Word.rsvd1 w = 0) :
    commandWord (Word.align w) (Word.flag w) (Word.op w) = w := by
  have h0 : w.toNat / 65536 % 65536 = 0 := by rw [← Word.toNat_rsvd0, h0]; rfl
  have h1 : w.toNat / 32 % 8 = 0 := by rw [← Word.toNat_rsvd1, h1]; rfl
  apply BitVec.eq_of_toNat_eq
  rw [toNat_commandWord, Word.toNat_align, Word.toNat_flag, Word.toNat_op]
  omega

/-! ### What each form of a command decodes to -/

theorem decodePlain_eq_ok {w : Word} {i j : Instr} :
    decodePlain w i = .ok j ↔ Word.flag w = false ∧ Word.align w = 0 ∧ i = j := by
  cases hf : Word.flag w <;> by_cases ha : Word.align w = 0#8 <;> simp [decodePlain, hf, ha]

theorem decodeFlagged_eq_ok {w : Word} {clear set j : Instr} :
    decodeFlagged w clear set = .ok j ↔ Word.align w = 0 ∧ (if Word.flag w then set else clear) = j := by
  cases hf : Word.flag w <;> by_cases ha : Word.align w = 0#8 <;> simp [decodeFlagged, hf, ha]

theorem decodePack_eq_ok {w : Word} {j : Instr} :
    decodePack w = .ok j ↔ Word.flag w = false ∧ Word.align w ≠ 0 ∧ .pack (Word.align w) = j := by
  cases hf : Word.flag w <;> by_cases ha : Word.align w = 0#8 <;> simp [decodePack, hf, ha]

/-! ### Decoding inverts encoding -/

theorem decode_encode {i : Instr} (h : i.wf = true) : decode (encode i) = .ok i := by
  cases i with
  | pack a =>
    obtain ⟨h0, h1, hop, hf, ha⟩ := Laws.WordFields.fields_of_packWord a
    have hne : a ≠ 0 := by simpa [Instr.wf] using h
    have hpack : decodePack (encode (.pack a)) = .ok (.pack a) :=
      decodePack_eq_ok.mpr ⟨hf, by rwa [ha], by rw [ha]⟩
    simp [decode, h0, h1, hop, hpack]
  | _ => decide

/-- Settles O3: decoding reads the fields that encoding has written. -/
theorem decodeOfEncode : Obligations.DecodeOfEncode :=
  fun _ => decode_encode

/-- A word is determined by its fields, the opcode given as a number. -/
theorem commandWord_eq {w : Word} {a : BitVec 8} {f : Bool} {n : Nat} (h0 : Word.rsvd0 w = 0) (h1 : Word.rsvd1 w = 0)
    (ha : Word.align w = a) (hf : Word.flag w = f) (ho : (Word.op w).toNat = n) :
    commandWord a f (BitVec.ofNat 4 n) = w := by
  rw [← ha, ← hf, ← ho, BitVec.ofNat_toNat, BitVec.setWidth_eq, commandWord_fields h0 h1]

theorem reserved_of_decode {w : Word} {i : Instr} (h : decode w = .ok i) : Word.rsvd0 w = 0 ∧ Word.rsvd1 w = 0 := by
  unfold decode at h
  split at h
  · cases h
  · next hr => simpa using hr

theorem encode_of_decode {w : Word} {i : Instr} (h : decode w = .ok i) : i.wf = true ∧ encode i = w := by
  obtain ⟨h0, h1⟩ := reserved_of_decode h
  simp only [decode, h0, h1, bne_self_eq_false, Bool.or_self, Bool.false_eq_true, if_false] at h
  split at h
  case h_2 ho =>
    obtain ⟨hf, ha, rfl⟩ := decodePack_eq_ok.mp h
    exact ⟨by simpa [Instr.wf] using ha, commandWord_eq h0 h1 rfl hf ho⟩
  case h_4 ho | h_9 ho =>
    obtain ⟨ha, rfl⟩ := decodeFlagged_eq_ok.mp h
    cases hf : Word.flag w <;> exact ⟨rfl, commandWord_eq h0 h1 ha hf ho⟩
  case h_10 => cases h
  all_goals
    next ho =>
    obtain ⟨hf, ha, rfl⟩ := decodePlain_eq_ok.mp h
    exact ⟨rfl, commandWord_eq h0 h1 ha hf ho⟩

/-- Settles O4: each row of the opcode table fixes the fields that the decoded command does not carry. -/
theorem encodeOfDecode : Obligations.EncodeOfDecode :=
  fun _ _ => encode_of_decode

/-- The legal words are those of the well-formed commands, each with one reading (30_encoding.md R98, R100). -/
theorem decode_eq_ok_iff {w : Word} {i : Instr} : decode w = .ok i ↔ i.wf = true ∧ encode i = w :=
  ⟨encode_of_decode, fun ⟨hi, hw⟩ => hw ▸ decode_encode hi⟩

/-! ### The words of the spec's tables -/

/-- Settles O1: each word is the encoding of its command. -/
theorem commandWordsDecode : Obligations.CommandWordsDecode := by
  unfold Obligations.CommandWordsDecode
  simp only [decode_eq_ok_iff]
  decide

/-- Settles O2, by running the encoder and the decoder on the words of the spec. -/
theorem encodingExamples : Obligations.EncodingExamples := by
  unfold Obligations.EncodingExamples
  decide

/-! ### The list of the legal words -/

/-- The fields of a command's word, for all commands (30_encoding.md R91, R98). -/
theorem wordFields (i : Instr) : Laws.WordFields.Statement i := by
  cases i with
  | nop => exact Laws.WordFields.nop
  | pack align => exact Laws.WordFields.pack align
  | unpack => exact Laws.WordFields.unpack
  | buildFrameU => exact Laws.WordFields.buildFrameU
  | buildFrameE => exact Laws.WordFields.buildFrameE
  | parseHeader => exact Laws.WordFields.parseHeader
  | maxPayload => exact Laws.WordFields.maxPayload
  | checkCapacity => exact Laws.WordFields.checkCapacity
  | embed => exact Laws.WordFields.embed
  | extract => exact Laws.WordFields.extract
  | extractKey => exact Laws.WordFields.extractKey

/-- The five conditions of 30_encoding.md R98, on the named fields. -/
def LegalFields (w : Word) : Prop :=
  Word.rsvd0 w = 0 ∧ Word.rsvd1 w = 0 ∧ (Word.op w).toNat ≤ 8 ∧
    (Word.flag w = false ∨ Word.op w = 3 ∨ Word.op w = 8) ∧
    (if Word.op w = 1 then Word.align w ≠ 0 else Word.align w = 0)

theorem legalFields_of_decode {w : Word} {i : Instr} (h : decode w = .ok i) : LegalFields w := by
  obtain ⟨hi, rfl⟩ := encode_of_decode h
  obtain ⟨h0, h1, hop, hf, ha⟩ := wordFields i hi
  refine ⟨h0, h1, hop, ?_, ?_⟩
  · cases hfl : Word.flag (encode i)
    · exact .inl rfl
    · exact .inr (hf hfl)
  · split
    · next h => exact ha.mpr h
    · next h => exact not_not.mp fun hne => h (ha.mp hne)

theorem decode_of_legalFields {w : Word} (h : LegalFields w) : ∃ i, decode w = .ok i := by
  obtain ⟨h0, h1, hop, hf, ha⟩ := h
  have hflag (h3 : (Word.op w).toNat ≠ 3) (h8 : (Word.op w).toNat ≠ 8) : Word.flag w = false :=
    hf.resolve_right (not_or.mpr ⟨fun e => h3 (congrArg BitVec.toNat e), fun e => h8 (congrArg BitVec.toNat e)⟩)
  have halign (h1 : (Word.op w).toNat ≠ 1) : Word.align w = 0 := by
    rwa [if_neg fun e => h1 (congrArg BitVec.toNat e)] at ha
  simp only [decode, h0, h1, bne_self_eq_false, Bool.or_self, Bool.false_eq_true, if_false]
  split
  case h_2 ho =>
    rw [if_pos (BitVec.eq_of_toNat_eq ho)] at ha
    exact ⟨_, decodePack_eq_ok.mpr ⟨hflag (by omega) (by omega), ha, rfl⟩⟩
  case h_4 ho | h_9 ho => exact ⟨_, decodeFlagged_eq_ok.mpr ⟨halign (by omega), rfl⟩⟩
  case h_10 =>
    simp only [imp_false] at *
    omega
  all_goals exact ⟨_, decodePlain_eq_ok.mpr ⟨hflag (by omega) (by omega), halign (by omega), rfl⟩⟩

theorem exists_decode_iff {w : Word} : (∃ i, decode w = .ok i) ↔ LegalFields w :=
  ⟨fun ⟨_, h⟩ => legalFields_of_decode h, decode_of_legalFields⟩

/-- `everyCommand` lists PACK at the alignments 1 to 255. -/
theorem pack_mem_packs {a : BitVec 8} :
    Instr.pack a ∈ (List.range 255).map (fun n => Instr.pack (BitVec.ofNat 8 (n + 1))) ↔ a ≠ 0 := by
  simp only [List.mem_map, List.mem_range, Instr.pack.injEq, ne_eq]
  constructor
  · rintro ⟨n, hn, rfl⟩ h
    have hn0 := congrArg BitVec.toNat h
    rw [BitVec.toNat_ofNat, Nat.mod_eq_of_lt (by omega)] at hn0
    exact Nat.succ_ne_zero n hn0
  · intro h
    have ha : a.toNat ≠ 0 := fun e => h (BitVec.eq_of_toNat_eq e)
    have hpred : BitVec.ofNat 8 (a.toNat - 1 + 1) = a := by
      rw [Nat.sub_add_cancel (by omega), BitVec.ofNat_toNat, BitVec.setWidth_eq]
    exact ⟨a.toNat - 1, by omega, hpred⟩

theorem mem_everyCommand {i : Instr} : i ∈ everyCommand ↔ i.wf = true := by
  unfold everyCommand
  cases i with
  | pack a =>
    rw [List.mem_append, List.mem_append, pack_mem_packs]
    simp [Instr.wf]
  | _ => simp [Instr.wf]

theorem everyCommand_nodup : everyCommand.Nodup := by
  have hpacks : ((List.range 255).map fun n => Instr.pack (BitVec.ofNat 8 (n + 1))).Nodup := by
    refine List.Nodup.map_on (fun m hm n hn h => ?_) List.nodup_range
    have hmn := congrArg BitVec.toNat (Instr.pack.inj h)
    simp only [List.mem_range, BitVec.toNat_ofNat] at hm hn hmn
    omega
  simp [everyCommand, List.nodup_append, hpacks]

/-- Two well-formed commands with one word are one command, since the word decodes to both. -/
theorem encode_injective {i j : Instr} (hi : i.wf = true) (hj : j.wf = true) (h : encode i = encode j) : i = j := by
  have hd : decode (encode i) = .ok j := h ▸ decode_encode hj
  exact Except.ok.inj ((decode_encode hi).symm.trans hd)

/-- Settles O5: the conditions are those on the fields; the legal words are the words of the listed commands, all
different. -/
theorem legalWords : Obligations.LegalWords := by
  refine ⟨fun w => exists_decode_iff, fun w => ?listed, ?nodup, ?count, ?packs, fun i => mem_everyCommand.symm⟩
  case listed => simp only [decode_eq_ok_iff, List.mem_map, mem_everyCommand]
  case nodup =>
    exact List.Nodup.map_on
      (fun i hi j hj => encode_injective (mem_everyCommand.mp hi) (mem_everyCommand.mp hj)) everyCommand_nodup
  case count => simp [everyCommand]
  case packs => simp [everyCommand, List.filter_map, Function.comp_def]

end Sys2Proof
end

/-! ## A write of CMD, and the host script's own actions (30_encoding.md R90, R99, R102) -/

section
namespace Sys2Proof.Machine

/-! ### A write of CMD -/

theorem Status.running_eq : Status.running = 0x01 := by decide

theorem Status.completed_illegalCommand : Status.completed (some .illegalCommand) = 0x42 := by decide

theorem step_setCmd_busy {s : State} {w : Word} {rest : List Action} (hs : s.host.script = .setCmd w :: rest)
    (hb : s.busy = true) : step s = .next (s.withScript rest) := by
  simp [step_of_script hs, act, hostSetCmd, hb]

/-- While no command runs, a write of CMD issues its word. -/
theorem step_setCmd_idle {s : State} {w : Word} {rest : List Action} (hs : s.host.script = .setCmd w :: rest)
    (hb : s.busy = false) : step s = issue w (s.withScript rest) := by
  simp [step_of_script hs, act, hostSetCmd, hb]

theorem issue_illegal {w : Word} {e : DecodeError} (h : decode w = .error e) (s : State) :
    issue w s = .next ((s.accept w .idle).complete (some .illegalCommand)) := by
  simp [issue, h]

theorem issue_legal {w : Word} {i : Instr} (h : decode w = .ok i) (s : State) :
    issue w s = exec i (s.accept w (startPhase i)) := by
  simp [issue, h]

/-- Settles O6: ignored while BUSY; otherwise the word's own branch of `issue`. -/
theorem stepRunsIssuedCommand : Obligations.StepRunsIssuedCommand := by
  intro s w rest hs
  refine ⟨step_setCmd_busy hs, fun e hb he => ?illegal, fun i hb hi => ?legal⟩
  case illegal =>
    rw [step_setCmd_idle hs hb, issue_illegal he, State.complete, Status.completed_illegalCommand]
    rfl
  case legal =>
    rw [step_setCmd_idle hs hb, issue_legal hi, State.accept, Status.running_eq]
    rfl

/-- Settles O8: the step of an illegal word ends in `complete`; an opcode above 8 breaks a condition of legality; NOP's
word is its encoding. -/
theorem illegalWordCompletesAtOnce : Obligations.IllegalWordCompletesAtOnce := by
  refine ⟨fun s w e rest he hb hs => ?illegal, fun w hop => ?reserved, fun w => ?nop⟩
  case illegal =>
    rw [step_setCmd_idle hs hb, issue_illegal he]
    exact ⟨_, rfl, Status.completed_illegalCommand, rfl⟩
  case reserved =>
    cases hd : decode w with
    | error e => exact ⟨e, rfl⟩
    | ok i =>
      obtain ⟨-, -, hle, -⟩ := legalFields_of_decode hd
      exact absurd hop (Nat.not_le.mpr (Nat.lt_succ_of_le hle))
  case nop =>
    have hword : encode .nop = 0 := by decide
    rw [decode_eq_ok_iff, hword, eq_comm (a := w)]
    exact and_iff_right rfl

/-! ### WAIT, STOPIF ERR, COPY and ENCRYPT -/

theorem waitDone_done {s : State} (rest : List Action) (h : s.done = true) :
    waitDone rest s = .next (s.withScript rest) := by
  simp [waitDone, h]

theorem hostSetBin_idle {s : State} {b : Bytes} (hb : s.busy = false) (hfit : Fits b.length s.cfg.bufBytes) :
    hostSetBin s b = .next { s with bin := .written b } :=
  hostWrite_idle hb (withinBound_iff.mpr hfit)

/-- COPY while no command runs, from a BOUT that holds a value. -/
theorem copyBinBout_written {s : State} {b : Bytes} (hb : s.busy = false) (hout : s.bout = .written b)
    (hfit : Fits b.length s.cfg.bufBytes) :
    copyBinBout s =
      .next { s with bin := .written b, host := { s.host with lastRead := some (.bytes b) } } := by
  have hread := hostRead_of_stored (s := s) (r := .bout) (v := .bytes b) (by simp [hb]) (by simp [storedValue, hout])
  simp only [copyBinBout, hread]
  exact hostSetBin_idle hb hfit

/-- ENCRYPT of BIN while no command runs, from a BIN that holds a value. -/
theorem encryptToBin_written {s : State} {b : Bytes} (pwd : Bytes) (hb : s.busy = false) (hbin : s.bin = .written b)
    (hfit : Fits (Config.encrypt b pwd).length s.cfg.bufBytes) :
    encryptToBin .bin pwd s = .next { s with bin := .written (Config.encrypt b pwd) } := by
  have hvalue : hostValue s .bin = (.bytes b, s) := by simp [hostValue, ReadReg.isResult, storedValue, hbin]
  simp only [encryptToBin, hvalue]
  exact hostSetBin_idle hb hfit

/-- Settles O59: each action is the step's, on the state without it. -/
theorem scriptActions : Obligations.ScriptActions := by
  intro s rest
  refine ⟨fun hs hd => ?wait, fun hs he => ?stop, fun hs he => ?goOn, fun b hs hb hout hfit => ?copy,
    fun b pwd hs hb hbin hfit => ?encrypt⟩ <;> rw [step_of_script hs]
  case wait => exact waitDone_done rest hd
  case stop => exact if_pos he
  case goOn => exact if_neg (not_not.mpr he)
  case copy => exact copyBinBout_written (s := s.withScript rest) hb hout hfit
  case encrypt => exact encryptToBin_written (s := s.withScript rest) pwd hb hbin hfit

end Sys2Proof.Machine
end

/-! ## Setting up a grid (00_scope.md R15, 30_encoding.md R102)

The cells of a pixel list stand in raster order, three addresses a pixel, so a pixel's bytes are found past those of the
pixels before it. -/

section
namespace Sys2Proof.Machine

/-! ### Reading past one byte's cell -/

/-- A byte's cell does not answer a read of another address. -/
theorem Memory.read_cellOf_append_other {a x : Nat} (b : Byte) (m : Memory) (hx : x ≠ a) :
    Memory.read (cellOf a b ++ m) x = Memory.read m x := by
  by_cases hb : b = unlistedByte <;> simp [cellOf, hb, Memory.read, hx.symm]

/-- A byte's cell before later addresses answers a read of its address, also where it is left out as unlisted. -/
theorem Memory.read_cellOf_append_self {a : Nat} (b : Byte) {m : Memory} (hm : ∀ c ∈ m, a < c.1) :
    Memory.read (cellOf a b ++ m) a = b := by
  by_cases hb : b = unlistedByte
  · simp [cellOf, hb, Memory.read_below hm]
  · simp [cellOf, hb, Memory.read]

theorem Memory.above_cellOf_append {k a : Nat} {b : Byte} {m : Memory} (ha : k < a) (hm : ∀ c ∈ m, k < c.1) :
    ∀ c ∈ cellOf a b ++ m, k < c.1 := by
  intro c hc
  rcases List.mem_append.mp hc with hc | hc
  · obtain ⟨rfl, -⟩ := mem_cellOf hc
    exact ha
  · exact hm c hc

/-! ### Pixels of a list -/

theorem Memory.readPixel_ofPixels_head (i : Nat) (p : Pixel) (ps : List Pixel) :
    Memory.readPixel (Memory.ofPixels i (p :: ps)) i = p := by
  have hrest {k : Nat} (hk : k < 3 * i + 3) : ∀ c ∈ Memory.ofPixels (i + 1) ps, k < c.1 := fun c hc => by
    obtain ⟨hle, -⟩ := Memory.mem_ofPixels hc
    omega
  have hblue {k : Nat} (hk : k < 3 * i + 2) := Memory.above_cellOf_append (b := p.b) hk (hrest (by omega))
  have hgreen {k : Nat} (hk : k < 3 * i + 1) := Memory.above_cellOf_append (b := p.g) hk (hblue (by omega))
  simp only [Memory.readPixel, Memory.ofPixels, List.append_assoc]
  rw [Memory.read_cellOf_append_self _ (hgreen (by omega)),
    Memory.read_cellOf_append_other _ _ (by omega), Memory.read_cellOf_append_self _ (hblue (by omega)),
    Memory.read_cellOf_append_other _ _ (by omega), Memory.read_cellOf_append_other _ _ (by omega),
    Memory.read_cellOf_append_self _ (hrest (by omega))]

theorem Memory.readPixel_ofPixels_tail {i j : Nat} (p : Pixel) (ps : List Pixel) (hj : j ≠ i) :
    Memory.readPixel (Memory.ofPixels i (p :: ps)) j = Memory.readPixel (Memory.ofPixels (i + 1) ps) j := by
  have hskip {x : Nat} (hx : x < 3 * i ∨ 3 * i + 3 ≤ x) :
      Memory.read (Memory.ofPixels i (p :: ps)) x = Memory.read (Memory.ofPixels (i + 1) ps) x := by
    simp only [Memory.ofPixels, List.append_assoc]
    rw [Memory.read_cellOf_append_other _ _ (by omega), Memory.read_cellOf_append_other _ _ (by omega),
      Memory.read_cellOf_append_other _ _ (by omega)]
  simp only [Memory.readPixel]
  rw [hskip (by omega), hskip (by omega), hskip (by omega)]

theorem Memory.readPixel_ofPixels {i j : Nat} {ps : List Pixel} {p : Pixel} (h : ps[j]? = some p) :
    Memory.readPixel (Memory.ofPixels i ps) (i + j) = p := by
  induction ps generalizing i j with
  | nil => simp at h
  | cons q ps ih =>
    cases j with
    | zero =>
      obtain rfl : q = p := by simpa using h
      exact Memory.readPixel_ofPixels_head i q ps
    | succ j =>
      rw [Memory.readPixel_ofPixels_tail q ps (by omega), ← Nat.add_assoc, Nat.add_right_comm]
      exact ih (by simpa using h)

/-! ### The step -/

theorem gridSetup_unused_sets {s : State} {w h : Nat} {pixels : List Pixel} (hm : s.embedding = false)
    (hx : s.extracting = false) (hl : pixels.length = w * h) :
    gridSetup w h pixels s =
      .next { s with grid := { s.grid with w := w, h := h, mem := Memory.ofPixels 0 pixels } } := by
  simp [gridSetup, hm, hx, hl]

theorem gridSetup_inUse {s : State} (w h : Nat) (pixels : List Pixel)
    (hu : s.embedding = true ∨ s.extracting = true) :
    gridSetup w h pixels s =
      if w = s.grid.w ∧ h = s.grid.h then .fault .gridRace else .fault .collaboratorFailure := by
  simp [gridSetup, hu]

/-- Settles O53: the new grid lists the pixels in raster order; a grid in use is a race or a change of geometry. -/
theorem gridSetup_inRasterOrder : Obligations.GridSetup := by
  intro s w h pixels rest hs hl
  rw [step_of_script hs]
  refine ⟨fun hm hx hf => ?unused, fun hu => ?used⟩
  case unused =>
    refine ⟨_, gridSetup_unused_sets (s := s.withScript rest) hm hx hl, rfl, rfl, rfl, Grid.wf_ofPixels hl _,
      fun x y hxw hyh => ?_⟩
    have hi : y * w + x < pixels.length := hl ▸ pixel_index_lt hxw hyh
    have hp : Memory.readPixel (Memory.ofPixels 0 pixels) (0 + (y * w + x)) = pixels[y * w + x] :=
      Memory.readPixel_ofPixels (List.getElem?_eq_getElem hi)
    rw [Nat.zero_add] at hp
    exact ⟨_, List.getElem?_eq_getElem hi, Grid.get_ok.mpr ⟨hf, hxw, hyh, hp.symm⟩⟩
  case used =>
    have hstep := gridSetup_inUse (s := s.withScript rest) w h pixels hu
    refine ⟨fun hw hh => ?race, fun hne => ?geometry⟩
    case race => exact hstep.trans (if_pos ⟨hw, hh⟩)
    case geometry => exact hstep.trans (if_neg hne)

end Sys2Proof.Machine
end

/-! ## The control command (40_control.md R120) -/

section
namespace Sys2Proof.Machine

theorem Status.completed_none : Status.completed none = 0x02 := by decide

/-- Completing changes STATUS and PHASE alone (60_exceptions.md R241). -/
theorem State.complete_eq_completedWith (s : State) (e : Option CmdError) :
    s.complete e = s.completedWith (Status.completed e) := rfl

theorem exec_nop (s : State) : exec .nop s = .next (s.completedWith 0x02) := by
  rw [← Status.completed_none, ← State.complete_eq_completedWith]
  rfl

/-- Opcode 0 admits neither a flag nor an alignment, so the one legal word that has it is 0. -/
theorem eq_zero_of_legalFields {w : Word} (h : LegalFields w) (hop : Word.op w = 0) : w = 0 := by
  obtain ⟨h0, h1, -, hf, ha⟩ := h
  have hflag : Word.flag w = false := by simpa [hop] using hf
  have halign : Word.align w = 0 := by simpa [hop] using ha
  calc w = commandWord (Word.align w) (Word.flag w) (Word.op w) := (commandWord_fields h0 h1).symm
    _ = commandWord 0 false 0 := by rw [halign, hflag, hop]
    _ = 0 := by decide

/-- Settles O14: NOP is `complete` without an error; a word with opcode 0 that decodes has legal fields, so it is 0. -/
theorem nopCompletes : Obligations.NopCompletes := by
  refine ⟨exec_nop, decode_encode (i := .nop) rfl, fun w hop hne => ?_⟩
  cases hd : decode w with
  | error e => exact ⟨e, rfl⟩
  | ok i => exact absurd (eq_zero_of_legalFields (legalFields_of_decode hd) hop) hne

end Sys2Proof.Machine
end

/-! ## The symbol codec (41_symbol_codec.md R130 to R135)

`pack` is one block of four symbols for each byte and then zeros; `unpack` reads such blocks until fewer than four
symbols are left. So what `unpack` makes of a packed sequence is the bytes and then what it makes of the zeros:
`unpack_flatMap_byteSyms_append`. -/

section
namespace Sys2Proof.Machine

/-! ### The padding -/

theorem padLength_lt (n : Nat) {a : Nat} (ha : 0 < a) : padLength n a < a :=
  Nat.mod_lt _ ha

/-- No padding where the length is a multiple of the alignment already. -/
theorem padLength_of_mod_eq_zero {n a : Nat} (h : n % a = 0) : padLength n a = 0 := by
  rw [padLength, h, Nat.sub_zero, Nat.mod_self]

theorem add_padLength_mod (n : Nat) {a : Nat} (ha : 0 < a) : (n + padLength n a) % a = 0 := by
  have hlt : n % a < a := Nat.mod_lt n ha
  calc (n + padLength n a) % a = (n % a + (a - n % a)) % a := by rw [padLength, Nat.add_mod_mod, Nat.mod_add_mod]
    _ = 0 := by rw [Nat.add_sub_cancel' hlt.le, Nat.mod_self]

theorem pack_length_of_mod_eq_zero {b : Bytes} {a : Nat} (h : 4 * b.length % a = 0) :
    (pack b a).length = 4 * b.length := by
  rw [pack_length_eq, padLength_of_mod_eq_zero h, Nat.add_zero]

theorem pack_nil (a : Nat) : pack [] a = [] :=
  List.eq_nil_of_length_eq_zero (pack_length_of_mod_eq_zero (Nat.zero_mod a))

/-! ### The symbols of a packed sequence -/

theorem byteSyms_getElem? (x : Byte) {j : Nat} (hj : j < 4) :
    (byteSyms x)[j]? = some (x.extractLsb' (6 - 2 * j) 2) := by
  match j with
  | 0 | 1 | 2 | 3 => rfl

/-- Each byte's block stands at four times the byte's index. -/
theorem flatMap_byteSyms_getElem? {b : Bytes} {n j : Nat} (hn : n < b.length) (hj : j < 4) :
    (b.flatMap byteSyms)[4 * n + j]? = some (b[n].extractLsb' (6 - 2 * j) 2) := by
  induction b generalizing n with
  | nil => exact absurd hn (Nat.not_lt_zero n)
  | cons x b ih =>
    have hlen : (byteSyms x).length = 4 := rfl
    rw [List.flatMap_cons]
    cases n with
    | zero =>
      rw [Nat.mul_zero, Nat.zero_add, List.getElem?_append_left (hlen ▸ hj)]
      exact byteSyms_getElem? x hj
    | succ n =>
      rw [List.getElem?_append_right (by omega), show 4 * (n + 1) + j - (byteSyms x).length = 4 * n + j by omega]
      exact ih (Nat.lt_of_succ_lt_succ hn)

theorem pack_getElem?_byte {b : Bytes} {n j : Nat} (a : Nat) (hn : n < b.length) (hj : j < 4) :
    (pack b a)[4 * n + j]? = some (b[n].extractLsb' (6 - 2 * j) 2) := by
  rw [pack, List.getElem?_append_left (by rw [flatMap_byteSyms_length]; omega)]
  exact flatMap_byteSyms_getElem? hn hj

theorem pack_getElem?_padding {b : Bytes} {a k : Nat} (hk : 4 * b.length ≤ k) (hlt : k < (pack b a).length) :
    (pack b a)[k]? = some 0 := by
  rw [pack_length_eq] at hlt
  rw [pack, flatMap_byteSyms_length, List.getElem?_append_right (by rwa [flatMap_byteSyms_length]),
    flatMap_byteSyms_length]
  exact List.getElem?_replicate_of_lt (by omega)

/-- Settles O15: the bytes' blocks, then the padding. -/
theorem packFunction : Obligations.PackFunction := by
  intro b a ha
  refine ⟨⟨_, padLength_lt _ ha, pack_length_eq b a⟩, ?multiple, fun n j hn hj => pack_getElem?_byte a hn hj,
    fun k hk hlt => pack_getElem?_padding hk hlt⟩
  case multiple => rw [pack_length_eq, add_padLength_mod _ ha]

/-! ### The bytes of an unpacked sequence -/

theorem unpack_of_length_lt {y : Syms} (h : y.length < 4) : unpack y = [] := by
  match y, h with
  | [], _ | [_], _ | [_, _], _ | [_, _, _], _ => rfl

/-- What `unpack` takes no block from is too short for one. -/
theorem length_lt_of_no_block {y : Syms} (h : ∀ s0 s1 s2 s3 rest, y = s0 :: s1 :: s2 :: s3 :: rest → False) :
    y.length < 4 := by
  match y with
  | [] | [_] | [_, _] | [_, _, _] => simp
  | s0 :: s1 :: s2 :: s3 :: rest => exact (h s0 s1 s2 s3 rest rfl).elim

theorem unpack_length (y : Syms) : (unpack y).length = y.length / 4 := by
  induction y using unpack.induct with
  | case1 s0 s1 s2 s3 y ih =>
    rw [unpack_cons, List.length_cons, ih]
    simp only [List.length_cons]
    omega
  | case2 y hshort =>
    have hlt := length_lt_of_no_block hshort
    rw [unpack_of_length_lt hlt, Nat.div_eq_of_lt hlt, List.length_nil]

theorem unpack_getElem? {y : Syms} {j : Nat} (hj : 4 * j + 3 < y.length) :
    (unpack y)[j]? = some (symsByte y[4 * j] y[4 * j + 1] y[4 * j + 2] y[4 * j + 3]) := by
  induction y using unpack.induct generalizing j with
  | case1 s0 s1 s2 s3 y ih =>
    rw [unpack_cons]
    cases j with
    | zero => rfl
    | succ j => exact ih (by simp only [List.length_cons] at hj; omega)
  | case2 y hshort =>
    have hlt := length_lt_of_no_block hshort
    omega

/-- Settles O16, by recursion along the blocks of four symbols. -/
theorem unpackFunction : Obligations.UnpackFunction :=
  fun y => ⟨unpack_length y, fun _ hj => unpack_getElem? hj⟩

/-! ### The round trip -/

/-- Each byte's block is read back as the byte, whatever follows. -/
theorem unpack_flatMap_byteSyms_append (b : Bytes) (y : Syms) : unpack (b.flatMap byteSyms ++ y) = b ++ unpack y := by
  induction b with
  | nil => rfl
  | cons x b ih =>
    calc unpack ((x :: b).flatMap byteSyms ++ y)
      _ = symsByte (x.extractLsb' 6 2) (x.extractLsb' 4 2) (x.extractLsb' 2 2) (x.extractLsb' 0 2) ::
            unpack (b.flatMap byteSyms ++ y) := by
          rw [List.flatMap_cons, List.append_assoc]; exact unpack_cons _ _ _ _ _
      _ = x :: b ++ unpack y := by rw [symsByte_byteSyms, ih]; rfl

/-- Fewer than four zeros of padding are no byte (41_symbol_codec.md R132). -/
theorem unpack_pack {a : Nat} (b : Bytes) (ha : 1 ≤ a) (ha4 : a ≤ 4) : unpack (pack b a) = b := by
  have hpad : padLength (b.flatMap byteSyms).length a < 4 := Nat.lt_of_lt_of_le (padLength_lt _ ha) ha4
  rw [pack, unpack_flatMap_byteSyms_append, unpack_of_length_lt (by rwa [List.length_replicate]), List.append_nil]

/-- Settles O17: at alignment 8 the padding of one byte is a whole block, which is read back as a zero byte. -/
theorem codecRoundTrip : Obligations.CodecRoundTrip :=
  ⟨fun b _ => unpack_pack b, by decide⟩

/-! ### The commands -/

theorem finishWithBout_of_fits {s : State} {b : Bytes} (h : Fits b.length s.cfg.bufBytes) :
    finishWithBout s b = .next (State.completedWith { s with bout := .written b } 0x02) := by
  rw [← Status.completed_none, ← State.complete_eq_completedWith]
  exact finishWithBout_next.mpr ⟨withinBound_iff.mpr h, rfl⟩

theorem finishWithBout_of_not_fits {s : State} {b : Bytes} (h : ¬Fits b.length s.cfg.bufBytes) :
    finishWithBout s b = .refused .resultTooLong :=
  if_neg fun hb => h (withinBound_iff.mp hb)

theorem finishWithSout_of_fits {s : State} {y : Syms} (h : Fits y.length s.cfg.bufSyms) :
    finishWithSout s y = .next (State.completedWith { s with sout := .written y } 0x02) := by
  rw [← Status.completed_none, ← State.complete_eq_completedWith]
  exact finishWithSout_next.mpr ⟨withinBound_iff.mpr h, rfl⟩

theorem finishWithSout_of_not_fits {s : State} {y : Syms} (h : ¬Fits y.length s.cfg.bufSyms) :
    finishWithSout s y = .refused .resultTooLong :=
  if_neg fun hy => h (withinBound_iff.mp hy)

theorem exec_pack_written {s : State} {b : Bytes} {a : BitVec 8} (hbin : s.bin = .written b) (ha : a ≠ 0) :
    exec (.pack a) s = finishWithSout s (pack b a.toNat) := by
  simp only [exec, execPack, if_neg ha, hbin]
  rfl

theorem exec_unpack_written {s : State} {y : Syms} (hsin : s.sin = .written y) :
    exec .unpack s = finishWithBout s (unpack y) := by
  simp only [exec, execUnpack, hsin]
  rfl

/-- Settles O18: PACK writes `pack` of BIN within SOUT's bound; a length that the alignment divides gets no padding. -/
theorem packCommand : Obligations.PackCommand := by
  obtain ⟨hunwritten, -⟩ := unwrittenOperandFaults
  refine ⟨fun s b a hbin ha => ?result, hunwritten, fun a => ?word, by decide, pack_nil, fun b => ?one, fun b => ?four,
    fun b => ?longest, by decide, by decide, by decide⟩
  case result =>
    rw [exec_pack_written hbin ha]
    exact ⟨finishWithSout_of_fits, finishWithSout_of_not_fits⟩
  case word =>
    rw [encode, toNat_commandWord]
    simp [Nat.mul_comm]
  case one => exact pack_length_of_mod_eq_zero (Nat.mod_one _)
  case four => exact pack_length_of_mod_eq_zero (Nat.mul_mod_right 4 _)
  case longest =>
    have hpad : padLength (4 * b.length) 255 < 255 := padLength_lt _ (by decide)
    rw [pack_length_eq]
    omega

/-- Settles O19: UNPACK writes `unpack` of SIN within BOUT's bound, which its length `len(SIN) div 4` decides. -/
theorem unpackCommand : Obligations.UnpackCommand := by
  obtain ⟨-, hunwritten, -⟩ := unwrittenOperandFaults
  refine ⟨fun s y hsin => ?result, hunwritten, decode_encode (i := .unpack) rfl, fun y => unpack_of_length_lt,
    fun y hy => ?five, by decide⟩
  case result =>
    rw [exec_unpack_written hsin, ← unpack_length]
    exact ⟨finishWithBout_of_fits, finishWithBout_of_not_fits⟩
  case five => rw [unpack_length, hy]

end Sys2Proof.Machine
end

/-! ## The frame codec (42_frame_codec.md R150 to R158)

A field of `n` bytes and a number below `2^(8n)` determine each other: `beDec_beEnc` and `beEnc_beDec`. So a header's
first four bytes read as a marker exactly when they are the marker's bytes, and the parse of a header is a case split on
those bytes: `parseHeader_eq_some` and `parseHeader_eq_none`. -/

section
namespace Sys2Proof.Machine

/-! ### Big-endian fields -/

@[simp] theorem beEnc_length (v n : Nat) : (beEnc v n).length = n := by simp [beEnc]

theorem beEnc_getElem? (v : Nat) {n i : Nat} (hi : i < n) :
    (beEnc v n)[i]? = some (BitVec.ofNat 8 (v / 2 ^ (8 * (n - 1 - i)))) := by
  rw [beEnc, List.getElem?_map, List.getElem?_range hi, Option.map_some]

/-- The last byte is the least significant one; the bytes before it are a field of the rest of the number. -/
theorem beEnc_succ (v n : Nat) : beEnc v (n + 1) = beEnc (v / 2 ^ 8) n ++ [BitVec.ofNat 8 v] := by
  have hbyte : ∀ i ∈ List.range n, BitVec.ofNat 8 (v / 2 ^ (8 * (n + 1 - 1 - i))) =
      BitVec.ofNat 8 (v / 2 ^ 8 / 2 ^ (8 * (n - 1 - i))) := by
    intro i hi
    rw [List.mem_range] at hi
    rw [Nat.div_div_eq_div_mul, ← Nat.pow_add, show 8 + 8 * (n - 1 - i) = 8 * (n + 1 - 1 - i) by omega]
  rw [beEnc, List.range_succ, List.map_append, List.map_congr_left hbyte]
  simp [beEnc]

theorem beDec_concat (b : Bytes) (x : Byte) : beDec (b ++ [x]) = beDec b * 2 ^ 8 + x.toNat := by
  simp [beDec]

theorem beDec_lt (b : Bytes) : beDec b < 2 ^ (8 * b.length) := by
  induction b using List.reverseRecOn with
  | nil => decide
  | append_singleton b x ih =>
    have hx : x.toNat < 2 ^ 8 := x.isLt
    rw [beDec_concat, List.length_append, List.length_singleton, Nat.mul_succ, Nat.pow_add]
    omega

/-- One more byte moves every byte before it eight bits up (42_frame_codec.md R150). -/
theorem beDec_eq_sum (b : Bytes) :
    beDec b = ((List.range b.length).map fun i => (b.getD i 0).toNat * 2 ^ (8 * (b.length - 1 - i))).sum := by
  induction b using List.reverseRecOn with
  | nil => rfl
  | append_singleton b x ih =>
    have hterm : ∀ i ∈ List.range b.length,
        ((b ++ [x]).getD i 0).toNat * 2 ^ (8 * (b.length + 1 - 1 - i)) =
          (b.getD i 0).toNat * 2 ^ (8 * (b.length - 1 - i)) * 2 ^ 8 := by
      intro i hi
      rw [List.mem_range] at hi
      rw [List.getD_append _ _ _ _ hi, Nat.mul_assoc, ← Nat.pow_add,
        show 8 * (b.length - 1 - i) + 8 = 8 * (b.length + 1 - 1 - i) by omega]
    rw [beDec_concat, ih, List.length_append, List.length_singleton, List.range_succ, List.map_append,
      List.map_congr_left hterm, List.sum_append, List.sum_map_mul_right]
    simp

theorem beDec_beEnc {v n : Nat} (h : v < 2 ^ (8 * n)) : beDec (beEnc v n) = v := by
  induction n generalizing v with
  | zero => exact (Nat.lt_one_iff.mp h).symm
  | succ n ih =>
    have hhigh : v / 2 ^ 8 < 2 ^ (8 * n) := Nat.div_lt_of_lt_mul (by rwa [← Nat.pow_add, Nat.add_comm])
    rw [beEnc_succ, beDec_concat, ih hhigh, BitVec.toNat_ofNat, Nat.div_add_mod']

theorem beEnc_beDec (b : Bytes) : beEnc (beDec b) b.length = b := by
  induction b using List.reverseRecOn with
  | nil => rfl
  | append_singleton b x ih =>
    have hx : x.toNat < 2 ^ 8 := x.isLt
    have hhigh : (beDec b * 2 ^ 8 + x.toNat) / 2 ^ 8 = beDec b := by omega
    have hlow : BitVec.ofNat 8 (beDec b * 2 ^ 8 + x.toNat) = x := by bv_omega
    rw [beDec_concat, List.length_append, List.length_singleton, beEnc_succ, hhigh, ih, hlow]

/-- Settles O20: the sum and the inverse are inductions on the last byte of the field. -/
theorem bigEndianFields : Obligations.BigEndianFields :=
  ⟨fun v n => ⟨beEnc_length v n, fun _ => beEnc_getElem? v⟩, beDec_eq_sum, fun _ _ => beDec_beEnc⟩

/-! ### Building a frame -/

theorem beEnc_marker_unencrypted : beEnc (marker .unencrypted) 4 = [0xDE, 0xAD, 0xC0, 0xDE] := by decide

theorem beEnc_marker_encrypted : beEnc (marker .encrypted) 4 = [0x13, 0x37, 0xC0, 0xDE] := by decide

theorem buildFrame_length (p : Bytes) (k : Kind) : (buildFrame p k).length = 12 + p.length := by
  simp only [buildFrame, List.length_append, beEnc_length]

/-- Settles O21: `build_frame` with the marker's bytes written out. -/
theorem buildFrameFunction : Obligations.BuildFrameFunction := by
  intro p
  refine ⟨?_, ?_, buildFrame_length p, rfl, rfl⟩
  · rw [buildFrame, beEnc_marker_unencrypted]
  · rw [buildFrame, beEnc_marker_encrypted]

/-! ### Parsing a header -/

theorem beDec_beEnc_marker (k : Kind) : beDec (beEnc (marker k) 4) = marker k :=
  beDec_beEnc (by cases k <;> decide)

theorem parseHeader_eq_some {hd : Bytes} {k : Kind} (h : hd.take 4 = beEnc (marker k) 4) :
    parseHeader hd = some (k, BitVec.ofNat 64 (beDec ((hd.drop 4).take 8))) := by
  rw [parseHeader, h, beDec_beEnc_marker]
  cases k <;> rfl

/-- Four bytes whose number is a marker are the marker's bytes, so other bytes are neither (42_frame_codec.md R158). -/
theorem parseHeader_eq_none {hd : Bytes} (hlen : 4 ≤ hd.length) (h : ∀ k, hd.take 4 ≠ beEnc (marker k) 4) :
    parseHeader hd = none := by
  have hm : ∀ k, beDec (hd.take 4) ≠ marker k := by
    intro k hk
    refine h k ?_
    calc hd.take 4 = beEnc (beDec (hd.take 4)) (hd.take 4).length := (beEnc_beDec _).symm
      _ = beEnc (marker k) 4 := by rw [hk, List.length_take_of_le hlen]
  rw [parseHeader, if_neg (hm .unencrypted), if_neg (hm .encrypted)]

/-- Nothing after the first 12 bytes is read. -/
theorem parseHeader_take (hd : Bytes) : parseHeader (hd.take headerBytes) = parseHeader hd := by
  simp [parseHeader, headerBytes, List.take_take, List.drop_take]

/-- No kind's marker stands in a header that has neither marker's bytes. -/
theorem take_ne_marker {hd : Bytes} (hu : hd.take 4 ≠ [0xDE, 0xAD, 0xC0, 0xDE])
    (he : hd.take 4 ≠ [0x13, 0x37, 0xC0, 0xDE]) : ∀ k, hd.take 4 ≠ beEnc (marker k) 4
  | .unencrypted => beEnc_marker_unencrypted ▸ hu
  | .encrypted => beEnc_marker_encrypted ▸ he

/-- Settles O22: the marker's bytes decide; the eight bytes after them are a field, so they read below `2^64`. -/
theorem parseHeaderFunction : Obligations.ParseHeaderFunction := by
  intro hd hlen
  have hfield : (hd.drop 4).length = 8 := by rw [List.length_drop, hlen]
  have hmarked : ∀ k, hd.take 4 = beEnc (marker k) 4 →
      parseHeader hd = some (k, BitVec.ofNat 64 (beDec (hd.drop 4))) := by
    intro k hk
    rw [parseHeader_eq_some hk, List.take_of_length_le hfield.le]
  refine ⟨fun hu => hmarked .unencrypted (hu.trans beEnc_marker_unencrypted.symm),
    fun he => hmarked .encrypted (he.trans beEnc_marker_encrypted.symm),
    fun hu he => parseHeader_eq_none (by omega) (take_ne_marker hu he), Nat.le_sub_one_of_lt ?bound⟩
  case bound =>
    have hlt := beDec_lt (hd.drop 4)
    rwa [hfield] at hlt

theorem buildFrame_markerField (p : Bytes) (k : Kind) : (buildFrame p k).take 4 = beEnc (marker k) 4 := by
  rw [buildFrame, List.append_assoc, List.take_left' (beEnc_length _ _)]

theorem buildFrame_lengthField (p : Bytes) (k : Kind) : ((buildFrame p k).drop 4).take 8 = beEnc p.length 8 := by
  rw [buildFrame, List.append_assoc, List.drop_left' (beEnc_length _ _), List.take_left' (beEnc_length _ _)]

/-- Settles O23: the marker field is the kind's, and the length field decodes to the length it encodes. -/
theorem parseOfBuiltFrame : Obligations.ParseOfBuiltFrame := by
  intro p k hp
  refine ⟨BitVec.ofNat 64 p.length, ?_, Nat.mod_eq_of_lt hp⟩
  calc parseHeader ((buildFrame p k).take 12)
    _ = some (k, BitVec.ofNat 64 (beDec (((buildFrame p k).drop 4).take 8))) :=
        (parseHeader_take _).trans (parseHeader_eq_some (buildFrame_markerField p k))
    _ = some (k, BitVec.ofNat 64 p.length) := by rw [buildFrame_lengthField, beDec_beEnc hp]

/-! ### The command BUILD_FRAME -/

theorem operand_eq_of_written {α : Type} {r : RegName} {c : Reg α} {v : α} (h : c = .written v) (k : α → Result) :
    operand r c k = k v := by
  rw [h, operand_written]

section
variable {s : State} {p : Bytes} (k : Kind) (hbin : s.bin = .written p)
include hbin

theorem buildFrameCommand_of_lt (hp : p.length < 2 ^ 64) :
    buildFrameCommand k s = finishWithBout s (buildFrame p k) := by
  rw [buildFrameCommand, operand_eq_of_written hbin, if_neg (Nat.not_le.mpr hp)]

theorem buildFrameCommand_of_fits (hp : p.length < 2 ^ 64) (hfit : Fits (12 + p.length) s.cfg.bufBytes) :
    buildFrameCommand k s = .next (State.completedWith { s with bout := .written (buildFrame p k) } 0x02) := by
  rw [buildFrameCommand_of_lt k hbin hp, finishWithBout_of_fits (by rwa [buildFrame_length])]

theorem buildFrameCommand_of_not_fits (hp : p.length < 2 ^ 64) (hfit : ¬Fits (12 + p.length) s.cfg.bufBytes) :
    buildFrameCommand k s = .refused .resultTooLong := by
  rw [buildFrameCommand_of_lt k hbin hp, finishWithBout_of_not_fits (by rwa [buildFrame_length])]

theorem buildFrameCommand_tooLong (hp : 2 ^ 64 ≤ p.length) :
    buildFrameCommand k s =
      .next (State.completedWith { s with bout := .written s.freeBytesIn, draws := s.draws + 1 } 0x42) := by
  rw [buildFrameCommand, operand_eq_of_written hbin, if_pos hp, ← Status.completed_illegalCommand]
  rfl

end

theorem freeBytesIn_fits (s : State) : Fits s.freeBytesIn.length s.cfg.bufBytes :=
  withinBound_iff.mp (withinBound_cutToBound _ _)

/-- Settles O24: the two commands are one function of the kind; both draw the same free BOUT for a payload too long. -/
theorem buildFrameCommand_outcomes : Obligations.BuildFrameCommand := by
  obtain ⟨-, -, hunwritten, -⟩ := unwrittenOperandFaults
  refine ⟨fun s p hbin hp => ⟨fun hfit => ?fits, fun hfit => ?refused⟩, fun s p hbin hp => ?tooLong,
    fun s hbin => ?operand, decode_encode (i := .buildFrameU) rfl, decode_encode (i := .buildFrameE) rfl, by decide,
    by decide⟩
  case fits =>
    exact ⟨buildFrameCommand_of_fits .unencrypted hbin hp hfit, buildFrameCommand_of_fits .encrypted hbin hp hfit⟩
  case refused =>
    exact ⟨buildFrameCommand_of_not_fits .unencrypted hbin hp hfit,
      buildFrameCommand_of_not_fits .encrypted hbin hp hfit⟩
  case tooLong =>
    exact ⟨s.freeBytesIn, freeBytesIn_fits s, buildFrameCommand_tooLong .unencrypted hbin hp,
      buildFrameCommand_tooLong .encrypted hbin hp⟩
  case operand =>
    obtain ⟨hu, he, -⟩ := hunwritten s hbin
    exact ⟨hu, he⟩

/-! ### The command PARSE_HEADER -/

theorem Status.completed_notSteganographic : Status.completed (some .notSteganographic) = 0x22 := by decide

theorem failParse_eq (e : CmdError) (s : State) :
    failParse e s = .next (State.completedWith
      { s with
        kind := .written (Config.freeBit s.draws), plen := .written (Config.freeLength (s.draws + 1)),
        draws := s.draws + 2 } (Status.completed (some e))) := rfl

theorem exec_parseHeader (s : State) : exec .parseHeader s = execParseHeader s := rfl

theorem execParseHeader_short {s : State} {hd : Bytes} (hbin : s.bin = .written hd) (hlen : hd.length < headerBytes) :
    execParseHeader s = failParse .illegalCommand s := by
  rw [execParseHeader, operand_eq_of_written hbin, if_pos hlen]

section
variable {s : State} {hd : Bytes} (hbin : s.bin = .written hd) (hlen : headerBytes ≤ hd.length)
include hbin hlen

theorem execParseHeader_marked {k : Kind} (hk : hd.take 4 = beEnc (marker k) 4) :
    execParseHeader s = .next (State.completedWith
      { s with kind := .written k.code, plen := .written (BitVec.ofNat 64 (beDec ((hd.drop 4).take 8))) } 0x02) := by
  rw [execParseHeader, operand_eq_of_written hbin, if_neg (Nat.not_lt.mpr hlen), parseHeader_take,
    parseHeader_eq_some hk, ← Status.completed_none]
  rfl

theorem execParseHeader_unmarked (h : ∀ k, hd.take 4 ≠ beEnc (marker k) 4) :
    execParseHeader s = failParse .notSteganographic s := by
  rw [execParseHeader, operand_eq_of_written hbin, if_neg (Nat.not_lt.mpr hlen), parseHeader_take,
    parseHeader_eq_none (Nat.le_trans (by decide) hlen) h]

end

/-- Settles O25: the length of BIN and its first four bytes decide between the outcomes. -/
theorem parseHeaderCommand : Obligations.ParseHeaderCommand := by
  obtain ⟨-, -, hunwritten, -⟩ := unwrittenOperandFaults
  refine ⟨fun s hd hbin hlen => ⟨fun hu => ?plain, fun he => ?secret, fun hu he => ?unmarked⟩,
    fun s hd hbin hlen => ?short, fun s hbin => ?operand, decode_encode (i := .parseHeader) rfl, by decide, by decide⟩
  case plain => exact execParseHeader_marked hbin hlen (hu.trans beEnc_marker_unencrypted.symm)
  case secret => exact execParseHeader_marked hbin hlen (he.trans beEnc_marker_encrypted.symm)
  case unmarked =>
    rw [exec_parseHeader, execParseHeader_unmarked hbin hlen (take_ne_marker hu he), failParse_eq,
      Status.completed_notSteganographic]
    exact ⟨_, _, rfl⟩
  case short =>
    rw [exec_parseHeader, execParseHeader_short hbin hlen, failParse_eq, Status.completed_illegalCommand]
    exact ⟨_, _, rfl⟩
  case operand =>
    obtain ⟨-, -, hparse, -⟩ := hunwritten s hbin
    exact hparse

end Sys2Proof.Machine
end

/-! ## The capacity model (43_capacity.md R170 to R173)

A frame has four symbols to a byte and a grid three channels to a pixel: `maxPayload_eq` is the bound in that form, and
`le_maxPayload` compares the two counts. CHECK_CAPACITY decides by it, which `exec_checkCapacity_written` says once
for written operands. -/

section
namespace Sys2Proof.Machine

/-! ### The bound -/

/-- Two bits of eight in each of three channels: three quarters of a byte to a pixel (43_capacity.md R170). -/
theorem maxPayload_eq (w h : Nat) : maxPayload w h = 3 * w * h / 4 := by
  rw [maxPayload, Nat.mul_assoc 3]
  omega

@[simp] theorem overCapacity_eq_true_iff {frame : Bytes} {w h : Nat} :
    overCapacity frame w h = true ↔ maxPayload w h < frame.length := decide_eq_true_iff

/-- Settles O26: the bound in symbols and channels is `le_maxPayload`; the stream that fits is EMBED's, whole pixels. -/
theorem capacityFunction : Obligations.CapacityFunction := by
  refine fun w h => ⟨rfl, maxPayload_eq w h, fun frame => ⟨overCapacity_eq_true_iff, ?symbols, fun hle => ?stream⟩⟩
  case symbols => rw [Nat.mul_assoc 3, le_maxPayload]
  case stream =>
    have hpixels := stream_fits hle
    rw [pack_embedAlign_length, Nat.mul_div_cancel_left _ (by decide)] at hpixels
    exact ⟨pack_embedAlign_length frame, hpixels⟩

/-! ### The command MAX_PAYLOAD -/

theorem exec_maxPayload_written {s : State} {w h : Nat} (hw : s.gw = .written w) (hh : s.gh = .written h) :
    exec .maxPayload s = .next (State.completedWith { s with cap := .written (maxPayload w h) } 0x02) := by
  have hexec : exec .maxPayload s = execMaxPayload s := rfl
  rw [hexec, execMaxPayload, operand_eq_of_written hw, operand_eq_of_written hh, State.complete_eq_completedWith,
    Status.completed_none]

/-- An empty payload's frame is the header, and 16 pixels are the fewest that hold its 48 symbols. -/
theorem header_le_maxPayload {w h : Nat} : 12 ≤ maxPayload w h ↔ 16 ≤ w * h := by
  rw [le_maxPayload]
  omega

theorem maxPayload_no_pixels (n : Nat) : maxPayload 0 n = 0 ∧ maxPayload n 0 = 0 := by
  simp [maxPayload]

/-- Settles O27: CAP receives `maxPayload` of written operands; an UNWRITTEN one faults, GW before GH. -/
theorem maxPayloadCommand : Obligations.MaxPayloadCommand := by
  obtain ⟨-, -, -, hgw, hgh, -⟩ := unwrittenOperandFaults
  exact ⟨fun _ _ _ => exec_maxPayload_written, fun s hw => (hgw s hw).1, fun s w hw hh => (hgh s w hw hh).1,
    decode_encode (i := .maxPayload) rfl, fun _ _ => header_le_maxPayload, maxPayload_no_pixels, by decide, by decide,
    by decide, by decide, by decide, by decide⟩

/-! ### The command CHECK_CAPACITY -/

theorem Status.completed_capacityExceeded : Status.completed (some .capacityExceeded) = 0x12 := by decide

section
variable {s : State} {frame : Bytes} {w h : Nat}
  (hbin : s.bin = .written frame) (hw : s.gw = .written w) (hh : s.gh = .written h)
include hbin hw hh

theorem exec_checkCapacity_written :
    exec .checkCapacity s = .next (s.completedWith (if maxPayload w h < frame.length then 0x12 else 0x02)) := by
  have hexec : exec .checkCapacity s = execCheckCapacity s := rfl
  rw [hexec, execCheckCapacity, operand_eq_of_written hbin, operand_eq_of_written hw, operand_eq_of_written hh]
  simp only [overCapacity_eq_true_iff, State.complete_eq_completedWith, Status.completed_capacityExceeded,
    Status.completed_none]
  split <;> rfl

theorem exec_checkCapacity_of_le (hle : frame.length ≤ maxPayload w h) :
    exec .checkCapacity s = .next (s.completedWith 0x02) := by
  rw [exec_checkCapacity_written hbin hw hh, if_neg (Nat.not_lt.mpr hle)]

theorem exec_checkCapacity_of_lt (hlt : maxPayload w h < frame.length) :
    exec .checkCapacity s = .next (s.completedWith 0x12) := by
  rw [exec_checkCapacity_written hbin hw hh, if_pos hlt]

end

/-- Settles O28: the comparison decides STATUS for written operands; an UNWRITTEN one faults, BIN, GW, GH in order. -/
theorem checkCapacityCommand : Obligations.CheckCapacityCommand := by
  obtain ⟨-, -, hbin, hgw, hgh, -⟩ := unwrittenOperandFaults
  refine ⟨fun s frame w h hb hw hh => ⟨exec_checkCapacity_of_le hb hw hh, exec_checkCapacity_of_lt hb hw hh⟩,
    fun s hb => ?bin, fun s b hb hw => (hgw s hw).2 b hb, fun s b w hb hw hh => (hgh s w hw hh).2 b hb,
    decode_encode (i := .checkCapacity) rfl, fun s w h hb hw hh => ?empty⟩
  case bin =>
    obtain ⟨-, -, -, hcheck, -⟩ := hbin s hb
    exact hcheck
  case empty => exact exec_checkCapacity_of_le hb hw hh (Nat.zero_le _)

end Sys2Proof.Machine
end

/-! ## The embedder (44_embedder.md R190 to R197)

EMBED passes its gate and then writes one pixel a step, so the state it started in, its stream and the number of pixels
written give a running EMBED's state: `State.embedAt`. A step moves from one such state to the next (`step_embedAt`), the
run is an induction over the pixels (`run_embedAt`), and what the grid then holds is `Memory.read_embedPixels`. -/

section
namespace Sys2Proof.Machine

/-! ### The core's turn while a command runs -/

/-- With no action left a step is the core's turn. -/
theorem step_of_no_script {s : State} (h : s.host.script = []) : step s = coreTurn s := by
  simp [step, stepOf, h]

theorem coreTurn_running {s : State} {i : Instr} (hb : s.busy = true) (hd : decode s.hid.opw = .ok i) :
    coreTurn s = exec i s := by
  simp [coreTurn, hb, hd]

theorem waitDone_not_done {s : State} (rest : List Action) (h : s.done = false) : waitDone rest s = coreTurn s := by
  simp [waitDone, h]

/-- Settles O7: each of the three steps is the core's turn, which runs the command of OPW. -/
theorem stepRunsRunningCommand : Obligations.StepRunsRunningCommand := by
  intro s i hb hd
  refine ⟨fun hs => ?empty, fun rest hs => ?turn, fun rest hs hdone => ?wait⟩
  case empty => exact (step_of_no_script hs).trans (coreTurn_running hb hd)
  case turn =>
    rw [step_of_script hs]
    exact coreTurn_running (s := s.withScript rest) hb hd
  case wait =>
    rw [step_of_script hs]
    exact (waitDone_not_done rest hdone).trans (coreTurn_running hb hd)

/-! ### The gate -/

/-- EMBED started in `s`, past its gate with the stream `y`, the first `n` pixels of it written. -/
def State.embedAt (s : State) (y : Syms) (n : Nat) : State :=
  { s with
    hid :=
      { s.hid with
        geom := (s.grid.w, s.grid.h), stream := y, k := 3 * n, phase := .embWrite, memBefore := s.grid.mem }
    grid := { s.grid with mem := embedPixels y s.grid.mem n } }

theorem not_overCapacity_iff {frame : Bytes} {w h : Nat} :
    ¬overCapacity frame w h = true ↔ frame.length ≤ maxPayload w h := by
  rw [overCapacity_eq_true_iff, Nat.not_lt]

section
variable {s : State} {frame : Bytes} (hbin : s.bin = .written frame) (hf : s.grid.fails = false)
include hbin hf

theorem embGateStep_of_lt (hlt : maxPayload s.grid.w s.grid.h < frame.length) :
    embGateStep s =
      .next (State.completedWith { s with hid := { s.hid with geom := (s.grid.w, s.grid.h) } } 0x12) := by
  rw [embGateStep, operand_eq_of_written hbin, withGeometry_answers _ hf, if_pos (overCapacity_eq_true_iff.mpr hlt),
    State.complete_eq_completedWith, Status.completed_capacityExceeded]

theorem embGateStep_of_le (hle : frame.length ≤ maxPayload s.grid.w s.grid.h) :
    embGateStep s = .next (s.embedAt (pack frame embedAlign) 0) := by
  rw [embGateStep, operand_eq_of_written hbin, withGeometry_answers _ hf, if_neg (not_overCapacity_iff.mpr hle)]
  rfl

/-- The whole command on a frame that fits (44_embedder.md R190). -/
theorem embedWhole_of_le (hle : frame.length ≤ maxPayload s.grid.w s.grid.h) :
    embedWhole s = .next (State.completedWith
      { s with
        hid := { s.hid with geom := (s.grid.w, s.grid.h) }
        grid := { s.grid with
          mem := embedPixels (pack frame embedAlign) s.grid.mem ((pack frame embedAlign).length / 3) } } 0x02) := by
  rw [embedWhole, operand_eq_of_written hbin, withGeometry_answers _ hf, if_neg (not_overCapacity_iff.mpr hle),
    ← Status.completed_none]
  rfl

end

theorem exec_embed_gate {s : State} (hp : s.hid.phase = .embGate) : exec .embed s = embGateStep s := by
  simp [exec, execEmbed, hp]

theorem exec_embed_write {s : State} (hp : s.hid.phase = .embWrite) : exec .embed s = embWriteStep s := by
  simp [exec, execEmbed, hp]

/-- Settles O29: the two branches of the gate's comparison. -/
theorem embedGate : Obligations.EmbedGate := by
  intro s frame hp hbin hf
  rw [exec_embed_gate hp]
  exact ⟨embGateStep_of_lt hbin hf, embGateStep_of_le hbin hf⟩

/-! ### The writing step -/

theorem embWriteStep_end {s : State} (hk : s.hid.k = s.hid.stream.length) :
    embWriteStep s = .next (s.completedWith 0x02) := by
  rw [embWriteStep, if_pos hk, State.complete_eq_completedWith, Status.completed_none]

/-- With the sampled geometry the pixel under the cursor is replaced, and the cursor moves on. -/
theorem embWriteStep_inside {s : State} (hf : s.grid.fails = false) (hg : s.hid.geom = (s.grid.w, s.grid.h))
    (hk : s.hid.k ≠ s.hid.stream.length) (hi : s.hid.k / 3 < s.grid.w * s.grid.h) :
    embWriteStep s = .next
      { s with
        hid := { s.hid with k := s.hid.k + 3 }
        grid := { s.grid with
          mem := Memory.writePixel s.grid.mem (s.hid.k / 3)
            (embedPixel s.hid.stream s.hid.k (Memory.readPixel s.grid.mem (s.hid.k / 3))) } } := by
  rw [embWriteStep, if_neg hk, memRead_inside _ hf hg hi, memWrite_inside _ _ hf hg hi]

/-- Settles O30: at the end of the stream the step completes; before it, it writes one pixel, and the laws of the grid's
bytes give what is read afterwards. -/
theorem embedWriteStep : Obligations.EmbedWriteStep := by
  intro s hp hf hg
  rw [exec_embed_write hp]
  refine ⟨embWriteStep_end, fun hk hi hwf => ⟨_, embWriteStep_inside hf hg hk hi, rfl, ?pixel, fun a ha => ?other⟩⟩
  case pixel => exact Memory.readPixel_writePixel_self hwf.1 _ _
  case other => exact Memory.read_writePixel_other _ _ ha

/-- Settles O31: only a step that writes a pixel changes the grid, and it stores to the address computed. -/
theorem embedFrame : Obligations.EmbedFrame := by
  intro s t (h : execEmbed s = .next t)
  obtain ⟨hp, he⟩ | ⟨-, he⟩ := execEmbed_cases s <;> rw [he] at h
  · obtain ⟨-, rfl⟩ | ⟨hk, _, rfl, rfl⟩ := embWriteStep_next h
    · exact ⟨rfl, fun _ => rfl, fun _ _ => rfl⟩
    · exact ⟨rfl, fun hno => absurd hno (by simp [hp, hk]), fun _ ha => Memory.read_writePixel_other _ _ ha⟩
  · obtain ⟨_, -, -, ⟨-, rfl⟩ | ⟨-, rfl⟩⟩ := embGateStep_next h <;> exact ⟨rfl, fun _ => rfl, fun _ _ => rfl⟩

/-! ### Runs -/

theorem run_one (M : Host.Core) (s : M.State) : M.run 1 s = M.step s := by
  rw [Host.Core.run]
  cases M.step s <;> rfl

/-- A run that answers a next state goes on from it. -/
theorem run_add {M : Host.Core} {s t : M.State} {m : Nat} (n : Nat) (h : M.run m s = .next t) :
    M.run (m + n) s = M.run n t := by
  induction m generalizing s with
  | zero =>
    cases h
    rw [Nat.zero_add]
  | succ m ih =>
    rw [Nat.succ_add]
    cases hs : M.step s with
    | next u =>
      rw [run_succ_of_next hs] at h ⊢
      exact ih h
    | fault | refused => rw [Host.Core.run, hs] at h; cases h

theorem run_succ {s t : State} {n : Nat} (h : Host.Core.run core n s = .next t) :
    Host.Core.run core (n + 1) s = step t :=
  (run_add 1 h).trans (run_one core t)

section
variable {s : State} {y : Syms} {n : Nat} (hs : s.host.script = []) (hb : s.busy = true)
  (hd : decode s.hid.opw = .ok .embed)
include hs hb hd

theorem step_embedAt_eq (y : Syms) (n : Nat) : step (s.embedAt y n) = embWriteStep (s.embedAt y n) := by
  rw [step_of_no_script (s := s.embedAt y n) hs, coreTurn_running (s := s.embedAt y n) hb hd,
    exec_embed_write (s := s.embedAt y n) rfl]

/-- At the end of its stream EMBED completes. -/
theorem step_embedAt_end (hn : 3 * n = y.length) :
    step (s.embedAt y n) = .next ((s.embedAt y n).completedWith 0x02) := by
  rw [step_embedAt_eq hs hb hd, embWriteStep_end (s := s.embedAt y n) hn]

variable (hf : s.grid.fails = false)
include hf

/-- Before the end of its stream EMBED writes the next pixel. -/
theorem step_embedAt (hn : 3 * n < y.length) (hi : n < s.grid.w * s.grid.h) :
    step (s.embedAt y n) = .next (s.embedAt y (n + 1)) := by
  have hcur : (s.embedAt y n).hid.k / 3 = n := Nat.mul_div_cancel_left n (by decide)
  rw [step_embedAt_eq hs hb hd, embWriteStep_inside (s := s.embedAt y n) hf rfl hn.ne (hcur.symm ▸ hi), hcur]
  rfl

/-- As long as stream and grid last, each step writes one pixel. -/
theorem run_embedAt (hn : 3 * n ≤ y.length) (hi : n ≤ s.grid.w * s.grid.h) :
    Host.Core.run core n (s.embedAt y 0) = .next (s.embedAt y n) := by
  induction n with
  | zero => rfl
  | succ n ih =>
    rw [run_succ (ih (by omega) (by omega))]
    exact step_embedAt hs hb hd hf (by omega) (by omega)

end

/-! ### The whole command -/

/-- EMBED as a write of its word starts it, with no other agent's action left. -/
def State.embedStart (s : State) : State := (s.withScript []).accept 0x00000007 .embGate

theorem State.busy_embedStart (s : State) : s.embedStart.busy = true := State.busy_accept _ _ _

theorem decode_embed : decode 0x00000007 = .ok .embed := decode_encode (i := .embed) rfl

section
variable {s : State} (hb : s.busy = false) (hs : s.host.script = [.setCmd 0x00000007])
include hb hs

theorem step_embed : step s = embGateStep s.embedStart := by
  rw [step_setCmd_idle hs hb, issue_legal decode_embed]
  exact exec_embed_gate rfl

variable {frame : Bytes} (hf : s.grid.fails = false) (hbin : s.bin = .written frame)
  (hle : frame.length ≤ maxPayload s.grid.w s.grid.h)
include hf hbin hle

/-- The gate's step, and then one step for each pixel. -/
theorem run_embed {n : Nat} (hn : n ≤ (pack frame embedAlign).length / 3) :
    Host.Core.run core (1 + n) s = .next (s.embedStart.embedAt (pack frame embedAlign) n) := by
  have hgate : Host.Core.run core 1 s = .next (s.embedStart.embedAt (pack frame embedAlign) 0) :=
    (run_one core s).trans ((step_embed hb hs).trans (embGateStep_of_le (s := s.embedStart) hbin hf hle))
  rw [run_add (M := core) n hgate]
  exact run_embedAt (s := s.embedStart) rfl s.busy_embedStart decode_embed hf (by omega)
    (hn.trans (stream_fits hle))

/-- One step more completes the command. -/
theorem run_embed_completes :
    Host.Core.run core (1 + (pack frame embedAlign).length / 3 + 1) s =
      .next (State.completedWith
        (s.embedStart.embedAt (pack frame embedAlign) ((pack frame embedAlign).length / 3)) 0x02) := by
  have hlen := pack_embedAlign_length frame
  rw [run_succ (run_embed hb hs hf hbin hle le_rfl)]
  exact step_embedAt_end (s := s.embedStart) rfl s.busy_embedStart decode_embed (by omega)

end

/-- Settles O32: the gate's step, then the run over the stream's pixels, whose end is the state of the whole command. -/
theorem embedStepFormAgreesWithWhole : Obligations.EmbedStepFormAgreesWithWhole := by
  intro s frame hb hs hf hbin
  refine ⟨fun hlt => ?tooLong, fun hle => ⟨fun n h1 hn => ?running, ?ends, ?whole⟩⟩
  case tooLong =>
    have hgate := (step_embed hb hs).trans (embGateStep_of_lt (s := s.embedStart) hbin hf hlt)
    exact congrArg visibleResult ((run_one core s).trans hgate)
  case running =>
    obtain ⟨m, rfl⟩ := Nat.exists_eq_add_of_le h1
    have hm : m ≤ (pack frame 3).length / 3 := by omega
    exact ⟨_, run_embed hb hs hf hbin hle hm, s.busy_embedStart⟩
  case ends => exact congrArg visibleResult (run_embed_completes hb hs hf hbin hle)
  case whole =>
    have hwhole := embedWhole_of_le (s := s.embedStart) hbin hf hle
    exact (congrArg visibleResult (run_embed_completes hb hs hf hbin hle)).trans (congrArg visibleResult hwhole).symm

/-! ### The bytes of the grid after EMBED -/

theorem Memory.read_eq_channel (m : Memory) (i : Nat) {c : Nat} (hc : c < 3) :
    Memory.read m (3 * i + c) = (Memory.readPixel m i).channel c := by
  match c with
  | 0 | 1 | 2 => rfl

theorem embedPixel_channel (y : Syms) (k : Nat) (p : Pixel) {c : Nat} (hc : c < 3) :
    (embedPixel y k p).channel c = substitute (p.channel c) (y.getD (k + c) 0) := by
  match c with
  | 0 | 1 | 2 => rfl

/-- Each channel of a written pixel has its symbol substituted, and every other byte is as before (44_embedder.md R193,
R194). -/
theorem Memory.read_embedPixels {m : Memory} (hm : Memory.wf m) (y : Syms) (n a : Nat) :
    Memory.read (embedPixels y m n) a =
      if a < 3 * n then substitute (Memory.read m a) (y.getD a 0) else Memory.read m a := by
  induction n with
  | zero => rfl
  | succ n ih =>
    rw [embedPixels]
    by_cases ha : a < 3 * n ∨ 3 * n + 3 ≤ a
    · rw [Memory.read_writePixel_other _ _ ha, ih]
      exact if_congr (by omega) rfl rfl
    · obtain ⟨c, rfl⟩ : ∃ c, a = 3 * n + c := Nat.exists_eq_add_of_le (by omega)
      have hc : c < 3 := by omega
      rw [if_neg (by omega), Memory.read_eq_channel _ _ hc] at ih
      rw [Memory.read_eq_channel _ _ hc, Memory.readPixel_writePixel_self (Memory.wf_embedPixels hm y n),
        embedPixel_channel _ _ _ hc, ih, if_pos (by omega)]

/-- A mask acts on the kept bits and on the symbol apart. -/
theorem substitute_and (old mask : Byte) (y : Sym) :
    substitute old y &&& mask = (old &&& (0xFC &&& mask)) ||| (y.setWidth 8 &&& mask) := by
  rw [substitute, BitVec.and_or_distrib_right, BitVec.and_assoc]

theorem substitute_high (old : Byte) (y : Sym) : substitute old y &&& 0xFC = old &&& 0xFC := by
  have hy : ∀ y : Sym, y.setWidth 8 &&& (0xFC : Byte) = 0#8 := by decide
  rw [substitute_and, hy, BitVec.and_self, BitVec.or_zero]

theorem substitute_low (old : Byte) (y : Sym) : substitute old y &&& 0x03 = y.setWidth 8 := by
  have hmask : (0xFC &&& 0x03 : Byte) = 0#8 := by decide
  have hy : ∀ y : Sym, y.setWidth 8 &&& (0x03 : Byte) = y.setWidth 8 := by decide
  rw [substitute_and, hmask, hy, BitVec.and_zero, BitVec.zero_or]

/-- Settles O33: the run's last state holds the bytes of `embedPixels`, whose written part is the stream's. -/
theorem embedBitIsolation : Obligations.EmbedBitIsolation := by
  intro s frame hb hs hf hwf hbin hle
  have hlen := pack_embedAlign_length frame
  have hread := Memory.read_embedPixels hwf.1 (pack frame embedAlign) ((pack frame embedAlign).length / 3)
  rw [show 3 * ((pack frame embedAlign).length / 3) = (pack frame embedAlign).length by omega] at hread
  refine ⟨_, run_embed_completes hb hs hf hbin hle, rfl, fun a => ?high, fun a ha => ?low, fun a ha => ?past⟩
  case high =>
    refine (congrArg (· &&& 0xFC) (hread a)).trans ?_
    split
    · exact substitute_high _ _
    · rfl
  case low =>
    have hsym : (pack frame embedAlign).getD a 0 = (pack frame 3)[a] := List.getD_eq_getElem _ _ ha
    exact (congrArg (· &&& 0x03) ((hread a).trans (if_pos ha))).trans (hsym ▸ substitute_low _ _)
  case past => exact (hread a).trans (if_neg (Nat.not_lt.mpr ha))

end Sys2Proof.Machine
end

/-! ## The extractor's steps (45_extractor.md R212 to R223, R225)

`exec_extractWith` and the equations of `extractStep` by phase lead from a command to the step that PHASE names. What
the last step does with the payload, `finishExtract`, is what the whole command does with it. -/

section
namespace Sys2Proof.Machine

/-! ### The step that PHASE names -/

theorem exec_extractWith (key : Bool) (s : State) : exec (extractWith key) s = extractStep key s := by
  cases key <;> rfl

section
variable {key : Bool} {s : State}

theorem extractStep_extSize (hp : s.hid.phase = .extSize) : extractStep key s = extSizeStep s := by
  rw [extractStep, hp]

theorem extractStep_extHdr (hp : s.hid.phase = .extHdr) : extractStep key s = extHdrStep s := by
  rw [extractStep, hp]

theorem extractStep_extParse (hp : s.hid.phase = .extParse) : extractStep key s = extParseStep s := by
  rw [extractStep, hp]

theorem extractStep_extCheck (hp : s.hid.phase = .extCheck) : extractStep key s = extCheckStep s := by
  rw [extractStep, hp]

theorem extractStep_extPay (hp : s.hid.phase = .extPay) : extractStep key s = extPayStep s := by
  rw [extractStep, hp]

theorem extractStep_extDec (hp : s.hid.phase = .extDec) : extractStep key s = extDecStep key s := by
  rw [extractStep, hp]

end

/-! ### A failing EXTRACT -/

theorem Status.completed_invalidKeyOrData : Status.completed (some .invalidKeyOrData) = 0x32 := by decide

/-- KIND, PLEN and BOUT receive the next three free values (10_state.md R35; log entry 8). -/
theorem failExtract_eq (e : CmdError) (s : State) :
    ∃ k l b, failExtract e s = .next (State.completedWith
      { s with kind := .written k, plen := .written l, bout := .written b, draws := s.draws + 3 }
      (Status.completed (some e))) :=
  ⟨Config.freeBit s.draws, Config.freeLength (s.draws + 1), s.drawKind.drawPlen.freeBytesIn, rfl⟩

/-! ### The size check and the scan -/

/-- GEOM holds the collaborator's width and height (45_extractor.md R225). -/
def State.sampled (s : State) : State := { s with hid := { s.hid with geom := (s.grid.w, s.grid.h) } }

section
variable {s : State} (hf : s.grid.fails = false)
include hf

theorem extSizeStep_small (hsize : 3 * (s.grid.w * s.grid.h) < headerSyms) :
    extSizeStep s = failExtract .notSteganographic s.sampled := by
  rw [extSizeStep, withGeometry_answers _ hf, if_pos hsize]
  rfl

theorem extSizeStep_large (hsize : headerSyms ≤ 3 * (s.grid.w * s.grid.h)) :
    extSizeStep s = .next
      { s with hid := { s.hid with geom := (s.grid.w, s.grid.h), k := 0, acc := [], phase := .extHdr } } := by
  rw [extSizeStep, withGeometry_answers _ hf, if_neg (Nat.not_lt.mpr hsize)]

section
variable (hg : s.hid.geom = (s.grid.w, s.grid.h)) (hk : s.hid.k < 3 * (s.grid.w * s.grid.h)) {p : Pixel}
  (hfirst : s.hid.k % 3 = 0 → p = Memory.readPixel s.grid.mem (s.hid.k / 3))
  (hlater : s.hid.k % 3 ≠ 0 → p = s.hid.latch)
include hg hk hfirst hlater

/-- Inside the grid a symbol is always collected: from the pixel read at a first channel, else from the latch. -/
theorem nextSymbol_eq_collect (k : State → Result) : nextSymbol s k = k (s.collect p) := by
  by_cases hmod : s.hid.k % 3 = 0
  · rw [nextSymbol, if_pos hmod, memRead_inside _ hf hg (Nat.div_lt_of_lt_mul hk), hfirst hmod]
  · rw [nextSymbol, if_neg hmod, hlater hmod]

theorem extHdrStep_inside :
    extHdrStep s =
      .next (if s.hid.k + 1 = headerSyms then (s.collect p).enter .extParse else s.collect p) :=
  nextSymbol_eq_collect hf hg hk hfirst hlater _

theorem extPayStep_inside (hmore : s.hid.k ≠ s.hid.needed) : extPayStep s = .next (s.collect p) := by
  rw [extPayStep, if_neg hmore, nextSymbol_eq_collect hf hg hk hfirst hlater]

end

end

/-- The symbol collected is the two low bits of the channel that the cursor names (45_extractor.md R213). -/
theorem channelSym_channel_mod (p : Pixel) (k : Nat) :
    channelSym (p.channel (k % 3)) = (if k % 3 = 0 then p.r else if k % 3 = 1 then p.g else p.b).setWidth 2 := by
  have hlow (b : Byte) : channelSym b = b.setWidth 2 := (BitVec.setWidth_eq_extractLsb' (by decide)).symm
  have hmod : k % 3 = 0 ∨ k % 3 = 1 ∨ k % 3 = 2 := by omega
  obtain h | h | h := hmod <;> rw [h, hlow] <;> rfl

theorem extPayStep_end {s : State} (hk : s.hid.k = s.hid.needed) : extPayStep s = .next (s.enter .extDec) := by
  rw [extPayStep, if_pos hk]

/-- Settles O34: the size check's two branches, the end of the payload phase, and the symbol that a step of either scan
collects. -/
theorem extractScanSteps : Obligations.ExtractScanSteps := by
  intro key s hf
  rw [exec_extractWith]
  refine ⟨fun hp hsize => ?small, fun hp hsize => ?large, fun hp hk => ?scanned,
    fun hg hk p hfirst hlater => ⟨fun hp => ?header, fun hp hmore => ?payload⟩⟩
  case small =>
    rw [extractStep_extSize hp, extSizeStep_small hf hsize, ← Status.completed_notSteganographic]
    exact failExtract_eq _ _
  case large => rw [extractStep_extSize hp, extSizeStep_large hf hsize]
  case scanned => exact (extractStep_extPay hp).trans (extPayStep_end hk)
  case header =>
    rw [extractStep_extHdr hp, extHdrStep_inside hf hg hk hfirst hlater, State.collect, channelSym_channel_mod, ← hp]
    by_cases hlast : s.hid.k + 1 = 48
    · rw [if_pos (show s.hid.k + 1 = headerSyms from hlast), if_pos hlast]
      rfl
    · rw [if_neg (show s.hid.k + 1 ≠ headerSyms from hlast), if_neg hlast]
  case payload =>
    rw [extractStep_extPay hp, extPayStep_inside hf hg hk hfirst hlater hmore, State.collect, channelSym_channel_mod]

/-! ### The header parse and the size check of the payload -/

theorem extParseStep_bad {s : State} (h : parseHeader (unpack s.hid.acc) = none) :
    extParseStep s = failExtract .notSteganographic s := by
  rw [extParseStep, h]

theorem extParseStep_good {s : State} {k : Kind} {len : BitVec 64}
    (h : parseHeader (unpack s.hid.acc) = some (k, len)) :
    extParseStep s = .next { s.writeHeader k len with hid :=
      { s.hid with hk := k, hl := len, needed := neededSyms len, phase := .extCheck } } := by
  rw [extParseStep, h]
  rfl

theorem extCheckStep_small {s : State} (h : 3 * (s.hid.geom.1 * s.hid.geom.2) < s.hid.needed) :
    extCheckStep s = failExtract .capacityExceeded s :=
  if_pos h

/-- RESCAN decides only where the payload phase begins (45_extractor.md R219). -/
theorem extCheckStep_large {s : State} (h : s.hid.needed ≤ 3 * (s.hid.geom.1 * s.hid.geom.2)) :
    extCheckStep s = .next { s with hid :=
      { s.hid with
        k := if s.cfg.rescan then 0 else s.hid.k
        acc := if s.cfg.rescan then [] else s.hid.acc
        phase := .extPay } } := by
  rw [extCheckStep, if_neg (Nat.not_lt.mpr h)]
  cases s.cfg.rescan <;> rfl

/-- KIND's code is 1 for an encrypted frame alone (10_state.md R26). -/
theorem Kind.code_eq_ite (k : Kind) : k.code = if k = .encrypted then 1 else 0 := by
  cases k <;> rfl

/-- Settles O35: the parse decides the first step, the size of the image the second. -/
theorem extractParseAndCheck : Obligations.ExtractParseAndCheck := by
  intro key s
  rw [exec_extractWith]
  refine ⟨fun hp => ⟨fun hbad => ?bad, fun k len hgood => ?good⟩,
    fun hp => ⟨fun hsmall => ?small, fun hlarge => ?large⟩⟩
  case bad =>
    rw [extractStep_extParse hp, extParseStep_bad hbad, ← Status.completed_notSteganographic]
    exact failExtract_eq _ _
  case good =>
    rw [extractStep_extParse hp, extParseStep_good hgood, ← Kind.code_eq_ite]
    rfl
  case small =>
    rw [extractStep_extCheck hp, extCheckStep_small hsmall, ← Status.completed_capacityExceeded]
    exact failExtract_eq _ _
  case large => exact (extractStep_extCheck hp).trans (extCheckStep_large hlarge)

/-! ### The last step -/

/-- What EXTRACT does with the payload `p` of a frame of kind `k` (45_extractor.md R220 to R223). -/
def finishExtract (key : Bool) (k : Kind) (p : Bytes) (s : State) : Result :=
  match k, key with
  | .unencrypted, _ => finishWithBout s p
  | .encrypted, false => failExtract .invalidKeyOrData s
  | .encrypted, true =>
    operand .pwd s.pwd fun pwd =>
      match Config.decrypt p pwd with
      | none => failExtract .invalidKeyOrData s
      | some r => finishWithBout s r

theorem extDecStep_eq_finishExtract (key : Bool) (s : State) :
    extDecStep key s = finishExtract key s.hid.hk (payloadOf s.hid.acc s.hid.needed) s := by
  unfold extDecStep finishExtract
  cases s.hid.hk <;> cases key <;> rfl

theorem finishExtract_unencrypted (key : Bool) (p : Bytes) (s : State) :
    finishExtract key .unencrypted p s = finishWithBout s p := by
  rw [finishExtract]

theorem finishExtract_noKey (p : Bytes) (s : State) :
    finishExtract false .encrypted p s = failExtract .invalidKeyOrData s := rfl

section
variable {s : State} {p pwd : Bytes} (hpwd : s.pwd = .written pwd)
include hpwd

theorem finishExtract_rejected (h : Config.decrypt p pwd = none) :
    finishExtract true .encrypted p s = failExtract .invalidKeyOrData s := by
  simp only [finishExtract, hpwd, operand_written, h]

theorem finishExtract_decrypted {r : Bytes} (h : Config.decrypt p pwd = some r) :
    finishExtract true .encrypted p s = finishWithBout s r := by
  simp only [finishExtract, hpwd, operand_written, h]

end

/-- Settles O36: the kind, the key and the cipher's answer decide, and BOUT's bound where there is a result. -/
theorem extractDecodeStep : Obligations.ExtractDecodeStep := by
  intro s hp payload hpayload
  have hexec (key : Bool) : exec (extractWith key) s = finishExtract key s.hid.hk payload s := by
    rw [exec_extractWith, extractStep_extDec hp, extDecStep_eq_finishExtract, hpayload]
    rfl
  have hplain (key : Bool) (hk : s.hid.hk = .unencrypted) : exec (extractWith key) s = finishWithBout s payload := by
    rw [hexec, hk, finishExtract_unencrypted]
  refine ⟨fun key hk hfit => (hplain key hk).trans (finishWithBout_of_fits hfit),
    fun key hk hlong => (hplain key hk).trans (finishWithBout_of_not_fits hlong), fun hk => ?noKey,
    fun pwd hk hpwd => ?withKey⟩
  case noKey =>
    have hfail : exec .extract s = failExtract .invalidKeyOrData s := by
      rw [← finishExtract_noKey payload, ← hk]
      exact hexec false
    rw [hfail, ← Status.completed_invalidKeyOrData]
    exact failExtract_eq _ _
  case withKey =>
    have hkey : exec .extractKey s = finishExtract true .encrypted payload s := hk ▸ hexec true
    rw [hkey]
    cases hd : Config.decrypt payload pwd with
    | none =>
      simp only [finishExtract_rejected hpwd hd]
      rw [← Status.completed_invalidKeyOrData]
      exact failExtract_eq _ _
    | some r =>
      simp only [finishExtract_decrypted hpwd hd]
      exact ⟨finishWithBout_of_fits, finishWithBout_of_not_fits⟩

end Sys2Proof.Machine
end

/-! ## EXTRACT's run (45_extractor.md R210, R225, R226)

A scan is given by the state it began in and the number of symbols collected: `State.scanAt`. The run is followed from
its end: `EndsWithin` says how a running command ends and in how many steps, each phase hands on what the phase after it
ends in, and the size check's claim, `endsWithin_extSize`, is that of the whole command. -/

section
namespace Sys2Proof.Machine

/-! ### Ends of a run without another agent -/

theorem step_keeps_no_script {s t : State} (hs : s.host.script = []) (h : step s = .next t) : t.host.script = [] := by
  rw [step_of_no_script hs] at h
  obtain ⟨-, rfl⟩ | ⟨-, rfl | ⟨i, -, he⟩⟩ := coreTurn_next h
  · exact hs
  · exact hs
  · obtain ⟨-, -, -, -, -, -, hhost, -⟩ := commandsWriteOnlyTheirRegisters i s t he
    rw [hhost, hs]

/-- An idle core stays as it is (60_exceptions.md R256). -/
theorem run_of_idle {s : State} (hs : s.host.script = []) (hb : s.busy = false) (n : Nat) :
    Host.Core.run core n s = .next s := by
  induction n with
  | zero => rfl
  | succ n ih =>
    rw [run_succ ih, step_of_no_script hs, coreTurn, hb]
    rfl

theorem step_of_run_succ {M : Host.Core} {s t : M.State} {n : Nat} (h : M.run (n + 1) s = .next t) :
    ∃ u, M.step s = .next u ∧ M.run n u = .next t := by
  cases hu : M.step s with
  | next u => exact ⟨u, rfl, (run_succ_of_next hu).symm.trans h⟩
  | fault | refused => rw [Host.Core.run, hu] at h; cases h

/-- A step that leaves the command running leaves STATUS as it was. -/
theorem step_keeps_running {s t : State} (hs : s.host.script = []) (hst : s.status = Status.running)
    (h : step s = .next t) (ht : t.busy = true) : t.status = Status.running := by
  rw [step_of_no_script hs] at h
  obtain ⟨-, rfl⟩ | ⟨-, rfl | ⟨i, -, he⟩⟩ := coreTurn_next h
  · exact hst
  · simp at ht
  · obtain ⟨⟨e, he⟩, -⟩ | ⟨⟨hkeep, -⟩, -⟩ := exec_completes_or_runsOn he
    · simp [State.busy, he] at ht
    · exact hkeep.trans hst

/-- A command that still runs has run all along. -/
theorem busy_of_run {s t : State} {n : Nat} (hs : s.host.script = []) (h : Host.Core.run core n s = .next t)
    (ht : t.busy = true) : s.busy = true := by
  refine Bool.of_not_eq_false fun hb => ?_
  rw [run_of_idle hs hb] at h
  cases h
  simp [hb] at ht

/-- All along the run no other agent has an action, and STATUS is that of a running command. -/
theorem running_of_run {s t : State} {m n : Nat} (hs : s.host.script = []) (hst : s.status = Status.running)
    (h : Host.Core.run core n s = .next t) (ht : t.busy = true) (hm : m ≤ n) :
    ∃ u : State, Host.Core.run core m s = .next u ∧ u.host.script = [] ∧ u.status = Status.running := by
  induction m generalizing s n with
  | zero => exact ⟨s, rfl, hs, hst⟩
  | succ m ih =>
    obtain ⟨n, rfl⟩ : ∃ k, n = k + 1 := ⟨n - 1, by omega⟩
    obtain ⟨u, hu, h⟩ := step_of_run_succ (M := core) h
    have hsu := step_keeps_no_script hs hu
    rw [run_succ_of_next hu]
    exact ih hsu (step_keeps_running hs hst hu (busy_of_run hsu h ht)) h (Nat.le_of_succ_le_succ hm)

/-- The command running in `s` comes to its last step in fewer than `b` steps, and that one answers `r` but for hidden
state that is not read again. -/
def EndsWithin (s : State) (b : Nat) (r : Result) : Prop :=
  ∃ n t, n < b ∧ Host.Core.run core n s = .next t ∧ t.busy = true ∧ Settled (step t) ∧
    liveResult (step t) = liveResult r

section
variable {s u : State} {b c : Nat} {r r' : Result}

theorem EndsWithin.of_last (hb : s.busy = true) (hs : step s = r) (hr : Settled r) : EndsWithin s 1 r :=
  ⟨0, s, Nat.one_pos, rfl, hb, hs ▸ hr, congrArg liveResult hs⟩

theorem EndsWithin.of_run {m : Nat} (hu : Host.Core.run core m s = .next u) (h : EndsWithin u b r) :
    EndsWithin s (b + m) r := by
  obtain ⟨n, t, hn, hrun, ht⟩ := h
  exact ⟨m + n, t, by omega, (run_add (M := core) n hu).trans hrun, ht⟩

theorem EndsWithin.of_step (hu : step s = .next u) (h : EndsWithin u b r) : EndsWithin s (b + 1) r :=
  .of_run ((run_one core s).trans hu) h

theorem EndsWithin.mono (h : EndsWithin s b r) (hbc : b ≤ c) : EndsWithin s c r := by
  obtain ⟨n, t, hn, ht⟩ := h
  exact ⟨n, t, hn.trans_le hbc, ht⟩

theorem EndsWithin.congr (h : EndsWithin s b r) (hr : liveResult r = liveResult r') : EndsWithin s b r' := by
  obtain ⟨n, t, hn, hrun, hb, hsettled, ht⟩ := h
  exact ⟨n, t, hn, hrun, hb, hsettled, ht.trans hr⟩

end

theorem settled_failExtract (e : CmdError) (s : State) : Settled (failExtract e s) :=
  State.busy_complete _ _

theorem settled_extDecStep (key : Bool) (s : State) : Settled (extDecStep key s) := by
  cases h : extDecStep key s with
  | next t =>
    obtain ⟨e, he⟩ := (extDecStep_completes h).status
    exact (congrArg Status.busy he).trans (Status.busy_completed e)
  | fault | refused => trivial

/-! ### Scans -/

/-- EXTRACT began a scan in `s` and has collected `n` symbols: LATCH holds the pixel of the last one. -/
def State.scanAt (s : State) (n : Nat) : State :=
  { s with hid :=
    { s.hid with
      k := n
      acc := scanSyms s.grid.mem n
      latch := if n = 0 then s.hid.latch else Memory.readPixel s.grid.mem ((n - 1) / 3) } }

theorem State.collect_scanAt (s : State) (n : Nat) :
    (s.scanAt n).collect (Memory.readPixel s.grid.mem (n / 3)) = s.scanAt (n + 1) := by
  simp [State.scanAt, State.collect, scanSyms_succ, gridSym]

/-- In the middle of a pixel it is the pixel of the next symbol too. -/
theorem State.latch_scanAt (s : State) {n : Nat} (hn : n % 3 ≠ 0) :
    Memory.readPixel s.grid.mem (n / 3) = (s.scanAt n).hid.latch := by
  have hpos : n ≠ 0 := by rintro rfl; exact hn rfl
  rw [show n / 3 = (n - 1) / 3 by omega]
  exact (if_neg hpos).symm

/-- EXTRACT runs in `s`, and no other agent has an action to come. -/
structure ExtractsAlone (key : Bool) (s : State) : Prop where
  script : s.host.script = []
  busy : s.busy = true
  word : decode s.hid.opw = .ok (extractWith key)

section
variable {key : Bool} {s : State} (h : ExtractsAlone key s)
include h

theorem ExtractsAlone.step_eq : step s = extractStep key s := by
  rw [step_of_no_script h.script, coreTurn_running h.busy h.word, exec_extractWith]

theorem ExtractsAlone.enter (p : Phase) : ExtractsAlone key (s.enter p) := ⟨h.script, h.busy, h.word⟩

theorem ExtractsAlone.scanAt (n : Nat) : ExtractsAlone key (s.scanAt n) := ⟨h.script, h.busy, h.word⟩

variable (hf : s.grid.fails = false) (hg : s.hid.geom = (s.grid.w, s.grid.h)) {n : Nat}
  (hn : n < 3 * (s.grid.w * s.grid.h))
include hf hg hn

theorem step_scanAt_extHdr (hp : s.hid.phase = .extHdr) :
    step (s.scanAt n) =
      .next (if n + 1 = headerSyms then (s.scanAt (n + 1)).enter .extParse else s.scanAt (n + 1)) := by
  rw [(h.scanAt n).step_eq, extractStep_extHdr (s := s.scanAt n) hp,
    extHdrStep_inside (s := s.scanAt n) hf hg hn (fun _ => rfl) s.latch_scanAt, ← State.collect_scanAt]
  rfl

theorem step_scanAt_extPay (hp : s.hid.phase = .extPay) (hmore : n ≠ s.hid.needed) :
    step (s.scanAt n) = .next (s.scanAt (n + 1)) := by
  rw [(h.scanAt n).step_eq, extractStep_extPay (s := s.scanAt n) hp,
    extPayStep_inside (s := s.scanAt n) hf hg hn (fun _ => rfl) s.latch_scanAt hmore, ← State.collect_scanAt]
  rfl

end

/-! ### The phases, from the last to the first -/

/-- The payload's outcome rests on nothing hidden. -/
theorem liveResult_finishExtract (key : Bool) (k : Kind) (p : Bytes) {s t : State} (hv : s.visible = t.visible) :
    liveResult (finishExtract key k p s) = liveResult (finishExtract key k p t) := by
  have hcfg : s.cfg = t.cfg := show s.visible.cfg = t.visible.cfg by rw [hv]
  have hpwd : s.pwd = t.pwd := show s.visible.pwd = t.visible.pwd by rw [hv]
  have hwrite (b : Bytes) : liveResult (finishWithBout s b) = liveResult (finishWithBout t b) :=
    liveResult_ite (by rw [hcfg])
      (fun _ => liveResult_complete (congrArg (fun u : State => { u with bout := .written b }) hv)) fun _ => rfl
  unfold finishExtract
  split
  · exact hwrite p
  · exact failExtract_congr hv
  · rw [hpwd]
    refine liveResult_operand fun pwd => ?_
    split
    · exact failExtract_congr hv
    · exact hwrite _

section
variable {key : Bool} {s : State} (h : ExtractsAlone key s)
include h

theorem endsWithin_extDec (hp : s.hid.phase = .extDec) :
    EndsWithin s 1 (finishExtract key s.hid.hk (payloadOf s.hid.acc s.hid.needed) s) := by
  rw [← extDecStep_eq_finishExtract]
  exact .of_last h.busy (h.step_eq.trans (extractStep_extDec hp)) (settled_extDecStep key s)

variable (hf : s.grid.fails = false) (hg : s.hid.geom = (s.grid.w, s.grid.h))
include hf hg

/-- The payload phase with `d` symbols to come. -/
theorem endsWithin_extPay (hp : s.hid.phase = .extPay) (hfit : s.hid.needed ≤ 3 * (s.grid.w * s.grid.h)) {n d : Nat}
    (hn : n + d = s.hid.needed) :
    EndsWithin (s.scanAt n) (d + 2)
      (finishExtract key s.hid.hk (payloadOf (scanSyms s.grid.mem s.hid.needed) s.hid.needed) s) := by
  induction d generalizing n with
  | zero =>
    obtain rfl : n = s.hid.needed := hn
    have hstep : step (s.scanAt s.hid.needed) = .next ((s.scanAt s.hid.needed).enter .extDec) := by
      rw [(h.scanAt _).step_eq, extractStep_extPay (s := s.scanAt _) hp, extPayStep_end (s := s.scanAt _) rfl]
    exact .of_step hstep
      ((endsWithin_extDec ((h.scanAt _).enter .extDec) rfl).congr (liveResult_finishExtract _ _ _ rfl))
  | succ d ih => exact .of_step (step_scanAt_extPay h hf hg (by omega) hp (by omega)) (ih (by omega))

/-- The payload phase goes on after the header, or begins anew under RESCAN, which costs the header's symbols again. -/
theorem endsWithin_extCheck (hp : s.hid.phase = .extCheck) (hhdr : headerSyms ≤ s.hid.needed)
    (hfit : s.hid.needed ≤ 3 * (s.grid.w * s.grid.h)) :
    EndsWithin (s.scanAt headerSyms) (s.hid.needed + 3)
      (finishExtract key s.hid.hk (payloadOf (scanSyms s.grid.mem s.hid.needed) s.hid.needed) s) := by
  have hlarge : s.hid.needed ≤ 3 * (s.hid.geom.1 * s.hid.geom.2) := by rwa [hg]
  have hstep := (h.scanAt headerSyms).step_eq.trans
    ((extractStep_extCheck (s := s.scanAt headerSyms) hp).trans (extCheckStep_large hlarge))
  cases hr : s.cfg.rescan with
  | true =>
    have hnext : step (s.scanAt headerSyms) = .next (((s.scanAt headerSyms).enter .extPay).scanAt 0) := by
      rw [hstep, show (s.scanAt headerSyms).cfg.rescan = true from hr]
      rfl
    have hpay := endsWithin_extPay ((h.scanAt headerSyms).enter .extPay) hf hg rfl hfit (Nat.zero_add _)
    exact .of_step hnext (hpay.congr (liveResult_finishExtract _ _ _ rfl))
  | false =>
    have hnext : step (s.scanAt headerSyms) = .next ((s.enter .extPay).scanAt headerSyms) := by
      rw [hstep, show (s.scanAt headerSyms).cfg.rescan = false from hr]
      rfl
    have hpay := endsWithin_extPay (h.enter .extPay) hf hg rfl hfit (Nat.add_sub_cancel' hhdr)
    refine (EndsWithin.of_step hnext (hpay.congr (liveResult_finishExtract _ _ _ rfl))).mono ?_
    exact Nat.add_le_add_right (Nat.sub_le _ _) 3

/-- The header phase with `d + 1` symbols to come. -/
theorem endsWithin_extHdr (hp : s.hid.phase = .extHdr) (hfit : headerSyms ≤ 3 * (s.grid.w * s.grid.h)) {b n d : Nat}
    {r : Result} (hn : n + d + 1 = headerSyms) (hend : EndsWithin ((s.scanAt headerSyms).enter .extParse) b r) :
    EndsWithin (s.scanAt n) (b + d + 1) r := by
  induction d generalizing n with
  | zero =>
    have hstep := step_scanAt_extHdr h hf hg (n := n) (by omega) hp
    rw [if_pos hn, show n + 1 = headerSyms from hn] at hstep
    exact .of_step hstep hend
  | succ d ih =>
    have hstep := step_scanAt_extHdr h hf hg (n := n) (by omega) hp
    rw [if_neg (by omega)] at hstep
    exact .of_step hstep (ih (by omega))

end

/-! ### The whole command -/

section
variable {s : State} (hf : s.grid.fails = false) (key : Bool)
include hf

theorem extractWhole_noHeader (h : headerOf s.grid = none) :
    extractWhole key s = failExtract .notSteganographic s.sampled := by
  rw [extractWhole, withGeometry_answers _ hf]
  simp only [h]
  rfl

variable {k : Kind} {len : BitVec 64} (h : headerOf s.grid = some (k, len))
include h

theorem extractWhole_small (hsmall : 3 * (s.grid.w * s.grid.h) < neededSyms len) :
    extractWhole key s = failExtract .capacityExceeded (s.sampled.writeHeader k len) := by
  rw [extractWhole, withGeometry_answers _ hf]
  simp only [h, if_pos hsmall]
  rfl

theorem extractWhole_large (hlarge : neededSyms len ≤ 3 * (s.grid.w * s.grid.h)) :
    extractWhole key s = finishExtract key k (payloadOf (scanSyms s.grid.mem (neededSyms len)) (neededSyms len))
      (s.sampled.writeHeader k len) := by
  rw [extractWhole, withGeometry_answers _ hf]
  simp only [h, if_neg (Nat.not_lt.mpr hlarge)]
  rfl

end

/-- The most steps EXTRACT takes, by the header it finds (70_reset_and_hazards.md R287). -/
def extractSteps : Option (Kind × BitVec 64) → Nat
  | none => 50
  | some (_, len) => neededSyms len + 53

/-- EXTRACT's header scan begins. -/
def State.scanStart (s : State) : State := s.sampled.enter .extHdr

/-- EXTRACT has parsed a header and will compare the sizes. -/
def State.headerParsed (s : State) (k : Kind) (len : BitVec 64) : State :=
  { s.writeHeader k len with hid := { s.hid with hk := k, hl := len, needed := neededSyms len, phase := .extCheck } }

@[simp] theorem State.visible_enter (s : State) (p : Phase) : (s.enter p).visible = s.visible := rfl

@[simp] theorem State.visible_scanAt (s : State) (n : Nat) : (s.scanAt n).visible = s.visible := rfl

@[simp] theorem State.visible_headerParsed (s : State) (k : Kind) (len : BitVec 64) :
    (s.headerParsed k len).visible = (s.writeHeader k len).visible := rfl

theorem State.visible_writeHeader_scanStart (s : State) (k : Kind) (len : BitVec 64) :
    (s.scanStart.writeHeader k len).visible = (s.sampled.writeHeader k len).visible := rfl

section
variable {key : Bool} {s : State} (h : ExtractsAlone key s) (hf : s.grid.fails = false)
include h hf

/-- After the header scan: the parse, and the rest of the command. -/
theorem endsWithin_extParse (hsize : headerSyms ≤ 3 * (s.grid.w * s.grid.h)) :
    EndsWithin ((s.scanStart.scanAt headerSyms).enter .extParse) (extractSteps (headerOf s.grid) - 49)
      (extractWhole key s) := by
  have hscan : ExtractsAlone key s.scanStart := ⟨h.script, h.busy, h.word⟩
  have hscanned := (hscan.scanAt headerSyms).enter .extParse
  have hstep := hscanned.step_eq.trans (extractStep_extParse rfl)
  have hparse : parseHeader (unpack ((s.scanStart.scanAt headerSyms).enter .extParse).hid.acc) = headerOf s.grid :=
    (if_neg (Nat.not_lt.mpr hsize)).symm
  cases hh : headerOf s.grid with
  | none =>
    rw [extParseStep_bad (hparse.trans hh)] at hstep
    refine (EndsWithin.of_last hscanned.busy hstep (settled_failExtract _ _)).congr ?_
    rw [extractWhole_noHeader hf key hh]
    exact failExtract_congr (by simp [State.scanStart])
  | some header =>
    obtain ⟨k, len⟩ := header
    have hcheck : ExtractsAlone key (s.scanStart.headerParsed k len) := ⟨h.script, h.busy, h.word⟩
    have hnext : step ((s.scanStart.scanAt headerSyms).enter .extParse) =
        .next ((s.scanStart.headerParsed k len).scanAt headerSyms) :=
      hstep.trans (extParseStep_good (hparse.trans hh))
    rcases Nat.lt_or_ge (3 * (s.grid.w * s.grid.h)) (neededSyms len) with hsmall | hlarge
    · have hlast := (hcheck.scanAt headerSyms).step_eq.trans
        ((extractStep_extCheck rfl).trans (extCheckStep_small hsmall))
      have hend := EndsWithin.of_step hnext (.of_last (hcheck.scanAt headerSyms).busy hlast (settled_failExtract _ _))
      refine (hend.congr ?_).mono (show 2 ≤ neededSyms len + 53 - 49 by omega)
      rw [extractWhole_small hf key hh hsmall]
      exact failExtract_congr (by simp [State.visible_writeHeader_scanStart])
    · have hend := EndsWithin.of_step hnext (endsWithin_extCheck hcheck hf rfl rfl (Nat.le_add_right _ _) hlarge)
      refine (hend.congr ?_).mono (show neededSyms len + 4 ≤ neededSyms len + 53 - 49 by omega)
      rw [extractWhole_large hf key hh hlarge]
      exact liveResult_finishExtract _ _ _ (State.visible_writeHeader_scanStart _ _ _)

/-- EXTRACT from its first step on ends as the whole command does. -/
theorem endsWithin_extSize (hp : s.hid.phase = .extSize) :
    EndsWithin s (extractSteps (headerOf s.grid)) (extractWhole key s) := by
  have hstep := h.step_eq.trans (extractStep_extSize hp)
  rcases Nat.lt_or_ge (3 * (s.grid.w * s.grid.h)) headerSyms with hsmall | hlarge
  · have hh : headerOf s.grid = none := if_pos hsmall
    rw [hh, extractWhole_noHeader hf key hh]
    exact (EndsWithin.of_last h.busy (hstep.trans (extSizeStep_small hf hsmall)) (settled_failExtract _ _)).mono
      (by decide)
  · have hscan : ExtractsAlone key s.scanStart := ⟨h.script, h.busy, h.word⟩
    have hnext : step s = .next (s.scanStart.scanAt 0) := hstep.trans (extSizeStep_large hf hlarge)
    have hend := endsWithin_extHdr hscan hf rfl rfl hlarge (n := 0) (d := 47) rfl (endsWithin_extParse h hf hlarge)
    refine (EndsWithin.of_step hnext hend).mono ?_
    have hmin : 50 ≤ extractSteps (headerOf s.grid) := by
      cases headerOf s.grid with
      | none => exact le_rfl
      | some header => exact Nat.le_add_left_of_le (by decide)
    omega

end

/-- A command as a write of its word starts it, with no other agent's action left. -/
def State.issued (s : State) (i : Instr) : State := (s.withScript []).accept (encode i) (startPhase i)

section
variable {s : State} {i : Instr} (hi : i.wf = true)
include hi

theorem step_issued : step (s.issued i) = exec i (s.issued i) := by
  rw [step_of_no_script (s := s.issued i) rfl,
    coreTurn_running (s := s.issued i) (State.busy_accept _ _ _) (decode_encode hi)]

/-- The step that takes the word is the first of the command it starts (30_encoding.md R90). -/
theorem step_commandWord {rest : List Action} (hb : s.busy = false) (hs : s.host.script = .setCmd (encode i) :: rest) :
    step s = exec i ((s.issued i).withScript rest) := by
  rw [step_setCmd_idle hs hb, issue_legal (decode_encode hi)]
  rfl

end

theorem extractWith_wf (key : Bool) : (extractWith key).wf = true := by cases key <;> rfl

theorem encode_extractWith (key : Bool) : encode (extractWith key) = if key then 0x00000018 else 0x00000008 := by
  cases key <;> decide

theorem startPhase_extractWith (key : Bool) : startPhase (extractWith key) = .extSize := by cases key <;> rfl

/-- EXTRACT ends as the whole command does. -/
theorem endsWithin_extract {s : State} (hf : s.grid.fails = false) (key : Bool) :
    EndsWithin (s.issued (extractWith key)) (extractSteps (headerOf s.grid))
      (extractWhole key (s.issued (extractWith key))) :=
  endsWithin_extSize ⟨rfl, State.busy_accept _ _ _, decode_encode (extractWith_wf key)⟩ hf (startPhase_extractWith key)

/-- Settles O37: the run from the write of CMD is the run from the command's start, which ends as the whole command. -/
theorem extractStepFormAgreesWithWhole : Obligations.ExtractStepFormAgreesWithWhole := by
  intro s key hb hs hf
  obtain ⟨n, t, hn, hrun, ht, hsettled, hlive⟩ := endsWithin_extract hf key
  have hstep : step s = step (s.issued (extractWith key)) := by
    rw [← encode_extractWith] at hs
    rw [step_commandWord (extractWith_wf key) hb hs, step_issued (extractWith_wf key)]
    rfl
  have hissued (m : Nat) :
      Host.Core.run core (m + 1) s = Host.Core.run core (m + 1) (s.issued (extractWith key)) :=
    run_succ_of_step_eq (M := core) hstep
  have hlast : Host.Core.run core (n + 1) s = step t := (hissued n).trans (run_succ hrun)
  refine ⟨n + 1, Nat.le_add_left _ _, ?bound, fun m h1 hm => ?running, hlast ▸ hsettled, ?outcome⟩
  case bound =>
    revert hn
    cases headerOf s.grid <;> exact id
  case running =>
    obtain ⟨m, rfl⟩ : ∃ k, m = k + 1 := ⟨m - 1, by omega⟩
    obtain ⟨u, hu, -, hst⟩ := running_of_run rfl rfl hrun ht (m := m + 1) (by omega)
    exact ⟨u, (hissued m).trans hu, congrArg Status.busy hst⟩
  case outcome =>
    rw [hlast, ← visibleResult_liveResult, hlive, visibleResult_liveResult, State.issued, encode_extractWith,
      startPhase_extractWith]

end Sys2Proof.Machine
end

/-! ## What a command does not read: RESCAN and the host's script (30_encoding.md R102, 45_extractor.md R226)

`mapNext` changes the next state of an outcome. The whole command EXTRACT commutes with another RESCAN, so the two runs
that end as it does are alike. A command's step commutes with another script, so a program's command line, which waits
for its command, ends as the command alone does: `answers_commandLine`. -/

section
namespace Sys2Proof.Machine

/-- The outcome with its next state, if it has one, changed by `f`. -/
def mapNext (f : State → State) : Result → Result
  | .next s => .next (f s)
  | .fault e => .fault e
  | .refused e => .refused e

section
variable (f : State → State)

@[simp] theorem mapNext_next (s : State) : mapNext f (.next s) = .next (f s) := rfl

@[simp] theorem mapNext_ite (c : Prop) [Decidable c] (p q : Result) :
    mapNext f (if c then p else q) = if c then mapNext f p else mapNext f q := apply_ite _ _ _ _

@[simp] theorem mapNext_operand {α : Type} (r : RegName) (c : Reg α) (k : α → Result) :
    mapNext f (operand r c k) = operand r c fun v => mapNext f (k v) := by
  cases c <;> rfl

@[simp] theorem mapNext_withGeometry (s : State) (k : State → Result) :
    mapNext f (withGeometry s k) = withGeometry s fun t => mapNext f (k t) := mapNext_ite f _ _ _

@[simp] theorem mapNext_memRead (s : State) (i : Nat) (k : Pixel → Result) :
    mapNext f (memRead s i k) = memRead s i fun p => mapNext f (k p) := by
  unfold memRead
  split <;> rfl

@[simp] theorem mapNext_memWrite (s : State) (i : Nat) (p : Pixel) (k : State → Result) :
    mapNext f (memWrite s i p k) = memWrite s i p fun t => mapNext f (k t) := by
  unfold memWrite
  split <;> rfl

end

/-- A change that keeps PWD and that a failing and a returning command commute with. -/
theorem finishExtract_mapNext {s : State} (f : State → State) (hpwd : (f s).pwd = s.pwd)
    (hfail : failExtract .invalidKeyOrData (f s) = mapNext f (failExtract .invalidKeyOrData s))
    (hreturn : ∀ b, finishWithBout (f s) b = mapNext f (finishWithBout s b)) (key : Bool) (k : Kind) (p : Bytes) :
    finishExtract key k p (f s) = mapNext f (finishExtract key k p s) := by
  match k, key with
  | .unencrypted, key =>
    rw [finishExtract_unencrypted, finishExtract_unencrypted]
    exact hreturn p
  | .encrypted, false => exact hfail
  | .encrypted, true =>
    rw [finishExtract, finishExtract, mapNext_operand, hpwd]
    refine congrArg (operand .pwd s.pwd) (funext fun pwd => ?_)
    split
    · exact hfail
    · exact hreturn _

/-! ### RESCAN -/

/-- Only the parameters change. -/
def State.withCfg (s : State) (c : Config) : State := { s with cfg := c }

section
variable {s : State} {c : Config} (hc : c.bufBytes = s.cfg.bufBytes)
include hc

theorem failExtract_withCfg (e : CmdError) :
    failExtract e (s.withCfg c) = mapNext (·.withCfg c) (failExtract e s) := by
  have hfree : (s.withCfg c).drawKind.drawPlen.freeBytesIn = s.drawKind.drawPlen.freeBytesIn :=
    congrArg (cutToBound _) hc
  rw [failExtract, State.drawBout, hfree]
  rfl

theorem finishWithBout_withCfg (b : Bytes) :
    finishWithBout (s.withCfg c) b = mapNext (·.withCfg c) (finishWithBout s b) := by
  rw [finishWithBout, finishWithBout, mapNext_ite, show (s.withCfg c).cfg.bufBytes = s.cfg.bufBytes from hc]
  rfl

theorem finishExtract_withCfg (key : Bool) (k : Kind) (p : Bytes) :
    finishExtract key k p (s.withCfg c) = mapNext (·.withCfg c) (finishExtract key k p s) :=
  finishExtract_mapNext (·.withCfg c) rfl (failExtract_withCfg hc _) (finishWithBout_withCfg hc) key k p

/-- Of the parameters the whole command reads BUF_BYTES alone. -/
theorem extractWhole_withCfg (key : Bool) (hf : s.grid.fails = false) :
    extractWhole key (s.withCfg c) = mapNext (·.withCfg c) (extractWhole key s) := by
  cases h : headerOf s.grid with
  | none =>
    rw [extractWhole_noHeader (s := s.withCfg c) hf key h, extractWhole_noHeader hf key h]
    exact failExtract_withCfg (s := s.sampled) hc _
  | some header =>
    obtain ⟨k, len⟩ := header
    rcases Nat.lt_or_ge (3 * (s.grid.w * s.grid.h)) (neededSyms len) with hsmall | hlarge
    · rw [extractWhole_small (s := s.withCfg c) hf key h hsmall, extractWhole_small hf key h hsmall]
      exact failExtract_withCfg (s := s.sampled.writeHeader k len) hc _
    · rw [extractWhole_large (s := s.withCfg c) hf key h hlarge, extractWhole_large hf key h hlarge]
      exact finishExtract_withCfg (s := s.sampled.writeHeader k len) hc _ _ _

end

theorem visibleResult_mapNext_withCfg (c : Config) (r : Result) :
    visibleResult (mapNext (·.withCfg c) r) = mapNext (·.withCfg c) (visibleResult r) := by
  cases r <;> rfl

/-- An outcome with the hidden part of a next state cleared is that next state's, or the stop itself. -/
theorem next_of_visibleResult_eq {r : Result} {t : State} (h : visibleResult r = .next t) :
    ∃ u, r = .next u ∧ u.visible = t := by
  cases r with
  | next u => exact ⟨u, rfl, Host.Outcome.next.inj h⟩
  | fault | refused => cases h

theorem eq_of_visibleResult_eq_stop {r q : Result} (h : visibleResult r = q) (hq : ∀ t, q ≠ .next t) : r = q := by
  cases r with
  | next u => exact absurd h.symm (hq _)
  | fault | refused => exact h

/-- Settles O38: both runs end as the whole command, which reads BUF_BYTES alone of the parameters. -/
theorem rescanEquivalence : Obligations.RescanEquivalence := by
  intro s key hb hs hf
  obtain ⟨m, hm, -, -, hsettledT, hT⟩ :=
    extractStepFormAgreesWithWhole (s.withCfg { s.cfg with rescan := true }) key hb hs hf
  obtain ⟨n, hn, -, -, hsettledF, hF⟩ :=
    extractStepFormAgreesWithWhole (s.withCfg { s.cfg with rescan := false }) key hb hs hf
  have hruns : visibleResult (Host.Core.run core n (s.withCfg { s.cfg with rescan := false })) =
      mapNext (·.withCfg { s.cfg with rescan := false })
        (visibleResult (Host.Core.run core m (s.withCfg { s.cfg with rescan := true }))) := by
    have hwhole := extractWhole_withCfg
      (s := ((s.withCfg { s.cfg with rescan := true }).withScript []).accept
        (if key then 0x00000018 else 0x00000008) .extSize)
      (c := { s.cfg with rescan := false }) rfl key hf
    rw [hT, ← visibleResult_mapNext_withCfg, ← hwhole]
    exact hF
  refine ⟨m, n, hm, hn, hsettledT, hsettledF, fun t (ht : Host.Core.run core m (s.withCfg _) = _) => ?next,
    fun f (hfault : Host.Core.run core m (s.withCfg _) = _) => ?fault,
    fun r (hrefused : Host.Core.run core m (s.withCfg _) = _) => ?refused⟩
  case next =>
    rw [ht] at hruns
    exact next_of_visibleResult_eq hruns
  case fault =>
    rw [hfault] at hruns
    exact eq_of_visibleResult_eq_stop (q := .fault f) hruns (by simp)
  case refused =>
    rw [hrefused] at hruns
    exact eq_of_visibleResult_eq_stop (q := .refused r) hruns (by simp)

/-! ### The host's script -/

section
variable (s : State) (l : List Action)

theorem finishWithBout_withScript (b : Bytes) :
    finishWithBout (s.withScript l) b = mapNext (·.withScript l) (finishWithBout s b) := by
  rw [finishWithBout, finishWithBout, mapNext_ite]
  rfl

theorem failExtract_withScript (e : CmdError) :
    failExtract e (s.withScript l) = mapNext (·.withScript l) (failExtract e s) := rfl

theorem finishWithSout_withScript (y : Syms) :
    finishWithSout (s.withScript l) y = mapNext (·.withScript l) (finishWithSout s y) := by
  rw [finishWithSout, finishWithSout, mapNext_ite]
  rfl

theorem buildFrameCommand_withScript (k : Kind) :
    buildFrameCommand k (s.withScript l) = mapNext (·.withScript l) (buildFrameCommand k s) := by
  simp only [buildFrameCommand, mapNext_operand, mapNext_ite, ← finishWithBout_withScript]
  rfl

theorem execParseHeader_withScript :
    execParseHeader (s.withScript l) = mapNext (·.withScript l) (execParseHeader s) := by
  simp only [execParseHeader, mapNext_operand, mapNext_ite]
  refine congrArg (operand .bin s.bin) (funext fun hd => congrArg (ite _ _) ?_)
  split <;> rfl

theorem execCheckCapacity_withScript :
    execCheckCapacity (s.withScript l) = mapNext (·.withScript l) (execCheckCapacity s) := by
  simp only [execCheckCapacity, mapNext_operand, mapNext_ite]
  rfl

theorem execEmbed_withScript : execEmbed (s.withScript l) = mapNext (·.withScript l) (execEmbed s) := by
  have hgate : embGateStep (s.withScript l) = mapNext (·.withScript l) (embGateStep s) := by
    simp only [embGateStep, mapNext_operand, mapNext_withGeometry, mapNext_ite]
    rfl
  have hwrite : embWriteStep (s.withScript l) = mapNext (·.withScript l) (embWriteStep s) := by
    simp only [embWriteStep, mapNext_ite, mapNext_memRead, mapNext_memWrite]
    rfl
  obtain ⟨hp, he⟩ | ⟨hp, he⟩ := execEmbed_cases s
  · rw [he, ← hwrite]
    exact exec_embed_write (s := s.withScript l) hp
  · obtain ⟨hp', -⟩ | ⟨-, he'⟩ := execEmbed_cases (s.withScript l)
    · exact absurd hp' hp
    · rw [he, he', hgate]

theorem nextSymbol_withScript {k : State → Result} (hk : ∀ t, k (t.withScript l) = mapNext (·.withScript l) (k t)) :
    nextSymbol (s.withScript l) k = mapNext (·.withScript l) (nextSymbol s k) := by
  simp only [nextSymbol, mapNext_ite, mapNext_memRead, ← hk]
  rfl

theorem extDecStep_withScript (key : Bool) :
    extDecStep key (s.withScript l) = mapNext (·.withScript l) (extDecStep key s) := by
  rw [extDecStep_eq_finishExtract, extDecStep_eq_finishExtract, State.withScript_hid]
  exact finishExtract_mapNext (·.withScript l) rfl (failExtract_withScript s l _) (finishWithBout_withScript s l) key
    _ _

theorem extSizeStep_withScript : extSizeStep (s.withScript l) = mapNext (·.withScript l) (extSizeStep s) := by
  simp only [extSizeStep, mapNext_withGeometry, mapNext_ite]
  rfl

theorem extHdrStep_withScript : extHdrStep (s.withScript l) = mapNext (·.withScript l) (extHdrStep s) := by
  refine nextSymbol_withScript s l fun t => ?_
  rw [mapNext_next, State.withScript_hid]
  split <;> rfl

theorem extParseStep_withScript : extParseStep (s.withScript l) = mapNext (·.withScript l) (extParseStep s) := by
  rw [extParseStep, extParseStep, State.withScript_hid]
  split <;> rfl

theorem extCheckStep_withScript : extCheckStep (s.withScript l) = mapNext (·.withScript l) (extCheckStep s) := by
  simp only [extCheckStep, mapNext_ite]
  rfl

theorem extPayStep_withScript : extPayStep (s.withScript l) = mapNext (·.withScript l) (extPayStep s) := by
  rw [extPayStep, extPayStep, mapNext_ite, ← nextSymbol_withScript s l fun _ => rfl]
  rfl

theorem extractStep_withScript (key : Bool) :
    extractStep key (s.withScript l) = mapNext (·.withScript l) (extractStep key s) := by
  unfold extractStep
  rw [State.withScript_hid]
  cases s.hid.phase with
  | extHdr => exact extHdrStep_withScript s l
  | extParse => exact extParseStep_withScript s l
  | extCheck => exact extCheckStep_withScript s l
  | extPay => exact extPayStep_withScript s l
  | extDec => exact extDecStep_withScript s l key
  | idle | embGate | embWrite | extSize => exact extSizeStep_withScript s l

/-- A command's step does not read the host's script. -/
theorem exec_withScript (i : Instr) : exec i (s.withScript l) = mapNext (·.withScript l) (exec i s) := by
  cases i with
  | nop => rfl
  | pack a =>
    simp only [exec, execPack, mapNext_operand, mapNext_ite, ← finishWithSout_withScript]
    rfl
  | unpack =>
    simp only [exec, execUnpack, mapNext_operand, ← finishWithBout_withScript]
    rfl
  | buildFrameU => exact buildFrameCommand_withScript s l .unencrypted
  | buildFrameE => exact buildFrameCommand_withScript s l .encrypted
  | parseHeader => exact execParseHeader_withScript s l
  | maxPayload =>
    simp only [exec, execMaxPayload, mapNext_operand]
    rfl
  | checkCapacity => exact execCheckCapacity_withScript s l
  | embed => exact execEmbed_withScript s l
  | extract => exact extractStep_withScript s l false
  | extractKey => exact extractStep_withScript s l true

theorem coreTurn_withScript : coreTurn (s.withScript l) = mapNext (·.withScript l) (coreTurn s) := by
  rw [coreTurn, coreTurn, mapNext_ite]
  refine if_congr .rfl ?_ rfl
  rw [State.withScript_hid]
  split
  · rfl
  · exact exec_withScript s l _

end

/-- While no command has completed, WAIT leaves the core its turn and stays in the script. -/
theorem step_wait {s : State} (rest : List Action) (hs : s.host.script = []) (hd : s.done = false) :
    step (s.withScript (.wait :: rest)) = mapNext (·.withScript (.wait :: rest)) (step s) := by
  rw [step_of_script (s := s.withScript (.wait :: rest)) rfl, step_of_no_script hs, ← coreTurn_withScript]
  exact waitDone_not_done rest hd

/-- So a command runs behind WAIT as it runs alone. -/
theorem run_wait {s t : State} {n : Nat} (rest : List Action) (hs : s.host.script = [])
    (hst : s.status = Status.running) (hrun : Host.Core.run core n s = .next t) (ht : t.busy = true) :
    Host.Core.run core n (s.withScript (.wait :: rest)) = .next (t.withScript (.wait :: rest)) := by
  induction n generalizing s with
  | zero => cases hrun; rfl
  | succ n ih =>
    obtain ⟨u, hu, hrun⟩ := step_of_run_succ (M := core) hrun
    have hwait : core.step (s.withScript (.wait :: rest)) = .next (State.withScript u (.wait :: rest)) :=
      (step_wait rest hs ((congrArg Status.done hst).trans Status.done_running)).trans (congrArg _ hu)
    have hbu : u.busy = true := busy_of_run (step_keeps_no_script hs hu) hrun ht
    rw [run_succ_of_next hwait]
    exact ih (step_keeps_no_script hs hu) (step_keeps_running hs hst hu hbu) hrun

/-! ### Command lines -/

/-- Some number of steps from `s` on answers `r`. -/
def Answers (s : State) (r : Result) : Prop := ∃ n, Host.Core.run core n s = r

theorem Answers.of_step {s u : State} {r : Result} (h : Answers u r) (hu : step s = .next u) : Answers s r := by
  obtain ⟨n, hn⟩ := h
  exact ⟨n + 1, (run_succ_of_next (M := core) hu).trans hn⟩

theorem Answers.trans {s u : State} {r : Result} (hu : Answers s (.next u)) (h : Answers u r) : Answers s r := by
  obtain ⟨m, hm⟩ := hu
  obtain ⟨n, hn⟩ := h
  exact ⟨m + n, (run_add (M := core) n hm).trans hn⟩

theorem Answers.refl (s : State) : Answers s (.next s) := ⟨0, rfl⟩

theorem State.eq_of_visible_eq {s t : State} (h : s.visible = t.visible) : ∃ hid, s = { t with hid := hid } :=
  ⟨s.hid, show { s.visible with hid := s.hid } = { t.visible with hid := s.hid } by rw [h]⟩

section
variable {s : State} {i : Instr} {rest : List Action} {b : Nat} (hi : i.wf = true) (hb : s.busy = false)
  (hs : s.host.script = commandLine i ++ rest)
include hi hb hs

/-- A command line answers what its command ends in, with WAIT still to be taken off the script. -/
theorem answers_commandLine {r : Result} (hend : EndsWithin (s.issued i) b r) :
    ∃ q, liveResult q = liveResult r ∧ Answers s (mapNext (·.withScript (.wait :: rest)) q) := by
  obtain ⟨n, t, -, hrun, ht, -, hlive⟩ := hend
  have hstep : core.step s = core.step ((s.issued i).withScript (.wait :: rest)) :=
    calc step s = mapNext (·.withScript (.wait :: rest)) (step (s.issued i)) := by
          rw [step_commandWord hi hb hs, exec_withScript, step_issued hi]
          rfl
      _ = _ := (step_wait (s := s.issued i) rest rfl Status.done_running).symm
  obtain ⟨_, hrun', hts, hst⟩ := running_of_run rfl rfl hrun ht le_rfl
  cases hrun.symm.trans hrun'
  refine ⟨step t, hlive, n + 1, ?_⟩
  rw [run_succ_of_step_eq hstep, run_succ (run_wait rest rfl rfl hrun ht)]
  exact step_wait rest hts ((congrArg Status.done hst).trans Status.done_running)

theorem answers_commandLine_next {t : State} (hend : EndsWithin (s.issued i) b (.next t)) (hd : t.done = true) :
    ∃ hid, Answers s (.next { t.withScript rest with hid := hid }) := by
  obtain ⟨q, hlive, hq⟩ := answers_commandLine hi hb hs hend
  obtain ⟨u, rfl, hu⟩ := next_of_visibleResult_eq (r := q) (t := t.visible)
    (by rw [← visibleResult_liveResult, hlive]; rfl)
  obtain ⟨hid, rfl⟩ := State.eq_of_visible_eq hu
  have hwait := step_of_script (s := State.withScript { t with hid := hid } (.wait :: rest)) rfl
  rw [act, waitDone_done rest (by exact hd)] at hwait
  exact ⟨hid, hq.trans ((Answers.refl _).of_step hwait)⟩

theorem answers_commandLine_refused {e : Refusal} (hend : EndsWithin (s.issued i) b (.refused e)) :
    Answers s (.refused e) := by
  obtain ⟨q, hlive, hq⟩ := answers_commandLine hi hb hs hend
  cases q <;> cases hlive
  exact hq

end

end Sys2Proof.Machine
end

/-! ## Hide and reveal (45_extractor.md R231, 30_encoding.md R103)

What EMBED has written reads back: a scan gives the stream's symbols (`scanSyms_embedPixels`), and `unpack` takes and
drops whole bytes of them, so the header and the payload of the frame come out (`extractWhole_of_holds`). A program is
followed command line by command line, from one idle state to the next. -/

section
namespace Sys2Proof.Machine

/-! ### A scan of an embedded stream -/

/-- The two low bits that EMBED substitutes are those EXTRACT reads (44_embedder.md R193, 45_extractor.md R213). -/
theorem channelSym_substitute (old : Byte) (y : Sym) : channelSym (substitute old y) = y := by
  have hmask : BitVec.extractLsb' 0 2 (0xFC : Byte) = 0#2 := by decide
  have hsym : ∀ y : Sym, BitVec.extractLsb' 0 2 (y.setWidth 8) = y := by decide
  rw [channelSym, substitute, BitVec.extractLsb'_or, BitVec.extractLsb'_and, hmask, hsym, BitVec.and_zero,
    BitVec.zero_or]

theorem gridSym_eq (m : Memory) (k : Nat) : gridSym m k = channelSym (Memory.read m k) := by
  rw [gridSym, ← Memory.read_eq_channel m (k / 3) (Nat.mod_lt k (by decide)), Nat.div_add_mod]

theorem scanSyms_embedPixels {m : Memory} (hm : Memory.wf m) {y : Syms} {n k : Nat} (hn : n ≤ 3 * k)
    (hy : n ≤ y.length) : scanSyms (embedPixels y m k) n = y.take n := by
  refine List.ext_getElem (by simp [scanSyms_length, hy]) fun a ha _ => ?_
  have han : a < n := by rwa [scanSyms_length] at ha
  have hsym : y.getD a 0 = y[a] := List.getD_eq_getElem _ _ (han.trans_le hy)
  rw [List.getElem_take]
  simp only [scanSyms, List.getElem_map, List.getElem_range]
  rw [gridSym_eq, Memory.read_embedPixels hm, if_pos (han.trans_le hn), channelSym_substitute, hsym]

/-! ### Whole bytes of a symbol sequence -/

theorem eq_block_append {y : Syms} (hy : 4 ≤ y.length) : ∃ s0 s1 s2 s3 rest, y = s0 :: s1 :: s2 :: s3 :: rest := by
  match y, hy with
  | s0 :: s1 :: s2 :: s3 :: rest, _ => exact ⟨s0, s1, s2, s3, rest, rfl⟩

theorem unpack_take (y : Syms) (n : Nat) : unpack (y.take (4 * n)) = (unpack y).take n := by
  induction n generalizing y with
  | zero => simp [unpack_of_length_lt]
  | succ n ih =>
    rcases Nat.lt_or_ge y.length 4 with hshort | hy
    · rw [List.take_of_length_le (by omega), unpack_of_length_lt hshort, List.take_nil]
    · obtain ⟨s0, s1, s2, s3, rest, rfl⟩ := eq_block_append hy
      rw [unpack_cons, List.take_succ_cons, ← ih, ← unpack_cons]
      rfl

theorem unpack_drop (y : Syms) (n : Nat) : unpack (y.drop (4 * n)) = (unpack y).drop n := by
  induction n generalizing y with
  | zero => rfl
  | succ n ih =>
    rcases Nat.lt_or_ge y.length 4 with hshort | hy
    · rw [List.drop_of_length_le (by omega), unpack_of_length_lt hshort, List.drop_nil]
      rfl
    · obtain ⟨s0, s1, s2, s3, rest, rfl⟩ := eq_block_append hy
      rw [unpack_cons, List.drop_succ_cons, ← ih]
      rfl

/-! ### A grid that holds a frame -/

/-- The frame of `p` stands in the grid's first channels (44_embedder.md R190). -/
structure HoldsFrame (g : Grid) (k : Kind) (p : Bytes) : Prop where
  size : 4 * (12 + p.length) ≤ 3 * (g.w * g.h)
  symbols : ∀ n ≤ 4 * (12 + p.length), scanSyms g.mem n = (pack (buildFrame p k) embedAlign).take n

/-- The grid that EMBED leaves of `g` (44_embedder.md R190). -/
def Grid.embed (g : Grid) (frame : Bytes) : Grid :=
  { g with mem := embedPixels (pack frame embedAlign) g.mem ((pack frame embedAlign).length / 3) }

theorem holdsFrame_embed {g : Grid} {k : Kind} {p : Bytes} (hg : Grid.wf g)
    (hle : 12 + p.length ≤ maxPayload g.w g.h) : HoldsFrame (g.embed (buildFrame p k)) k p where
  size := le_maxPayload.mp hle
  symbols n hn := by
    have hlen := pack_embedAlign_length (buildFrame p k)
    rw [buildFrame_length] at hlen
    exact scanSyms_embedPixels hg.1 (by omega) (by omega)

theorem neededSyms_ofNat {n : Nat} (hn : n < 2 ^ 64) : neededSyms (BitVec.ofNat 64 n) = 4 * (12 + n) := by
  rw [neededSyms, BitVec.toNat_ofNat, Nat.mod_eq_of_lt hn, headerSyms]
  omega

section
variable {g : Grid} {k : Kind} {p : Bytes} (h : HoldsFrame g k p)
include h

theorem HoldsFrame.unpack_scan {n : Nat} (hn : n ≤ 12 + p.length) :
    unpack (scanSyms g.mem (4 * n)) = (buildFrame p k).take n := by
  rw [h.symbols _ (Nat.mul_le_mul_left 4 hn), unpack_take, unpack_pack _ (by decide) (by decide)]

theorem HoldsFrame.payloadOf_eq :
    payloadOf (scanSyms g.mem (4 * (12 + p.length))) (4 * (12 + p.length)) = p := by
  have hframe : (buildFrame p k).take (12 + p.length) = buildFrame p k :=
    List.take_of_length_le (buildFrame_length p k).le
  have hpayload : (buildFrame p k).drop 12 = p := List.drop_left' (by simp)
  rw [payloadOf, show headerSyms = 4 * 12 from rfl, ← Nat.mul_sub, Nat.add_sub_cancel_left, unpack_take, unpack_drop,
    h.unpack_scan le_rfl, hframe, hpayload, List.take_length]

theorem HoldsFrame.headerOf_eq (hp : p.length < 2 ^ 64) : headerOf g = some (k, BitVec.ofNat 64 p.length) := by
  have hsize : ¬3 * (g.w * g.h) < headerSyms :=
    Nat.not_lt.mpr (Nat.le_trans (Nat.mul_le_mul_left 4 (Nat.le_add_right 12 _)) h.size)
  obtain ⟨len, hparse, hlen⟩ := parseOfBuiltFrame p k hp
  rw [headerOf, if_neg hsize, show headerSyms = 4 * 12 from rfl, h.unpack_scan (Nat.le_add_right _ _), hparse, ← hlen,
    BitVec.ofNat_toNat, BitVec.setWidth_eq]

end

/-- EXTRACT of a grid that holds a frame comes to the payload (45_extractor.md R210). -/
theorem extractWhole_of_holds {s : State} {k : Kind} {p : Bytes} (h : HoldsFrame s.grid k p) (hp : p.length < 2 ^ 64)
    (hf : s.grid.fails = false) (key : Bool) :
    extractWhole key s = finishExtract key k p (s.sampled.writeHeader k (BitVec.ofNat 64 p.length)) := by
  have hneeded := neededSyms_ofNat hp
  rw [extractWhole_large hf key (h.headerOf_eq hp) (hneeded.trans_le h.size), hneeded, h.payloadOf_eq]

/-! ### The host's writes of BIN -/

/-- BIN receives a value, and the program goes on with `rest`. -/
def State.binWritten (s : State) (b : Bytes) (rest : List Action) : State :=
  { s.withScript rest with bin := .written b }

section
variable {s : State} {b pwd : Bytes} {rest : List Action} (hb : s.busy = false)
include hb

theorem step_setBin (hs : s.host.script = .setBin b :: rest) (hfit : Fits b.length s.cfg.bufBytes) :
    step s = .next (s.binWritten b rest) := by
  obtain ⟨-, -, -, hset, -⟩ := (operandWrites s rest 0 b [] (.setBin b) hs (by simp)).2 hb
  exact hset rfl hfit

theorem step_encryptToBin (hs : s.host.script = .encryptToBin .bin pwd :: rest) (hbin : s.bin = .written b)
    (hfit : Fits (Config.encrypt b pwd).length s.cfg.bufBytes) :
    step s = .next (s.binWritten (Config.encrypt b pwd) rest) := by
  obtain ⟨-, -, -, -, hencrypt⟩ := scriptActions s rest
  exact hencrypt b pwd hs hb hbin hfit

end

/-! ### The commands of a program, from an idle state -/

/-- BUILD_FRAME of a kind (30_encoding.md R97). -/
def buildFrameInstr : Kind → Instr
  | .unencrypted => .buildFrameU
  | .encrypted => .buildFrameE

theorem buildFrameInstr_wf (k : Kind) : (buildFrameInstr k).wf = true := by cases k <;> rfl

theorem endsWithin_buildFrame {s : State} (k : Kind) {r : Result}
    (h : buildFrameCommand k (s.issued (buildFrameInstr k)) = r) (hr : Settled r) :
    EndsWithin (s.issued (buildFrameInstr k)) 1 r := by
  have hexec : exec (buildFrameInstr k) (s.issued (buildFrameInstr k)) =
      buildFrameCommand k (s.issued (buildFrameInstr k)) := by cases k <;> rfl
  exact .of_last (State.busy_accept _ _ _) ((step_issued (buildFrameInstr_wf k)).trans (hexec.trans h)) hr

theorem endsWithin_embed {s : State} {frame : Bytes} (hbin : s.bin = .written frame) (hf : s.grid.fails = false)
    (hle : frame.length ≤ maxPayload s.grid.w s.grid.h) :
    EndsWithin (s.issued .embed) (1 + (pack frame embedAlign).length / 3 + 1)
      (.next (State.completedWith
        ((s.issued .embed).embedAt (pack frame embedAlign) ((pack frame embedAlign).length / 3)) 0x02)) := by
  have hlen := pack_embedAlign_length frame
  have hb : (s.issued .embed).busy = true := State.busy_accept _ _ _
  have hd : decode (s.issued .embed).hid.opw = .ok .embed := decode_encode rfl
  have hgate : step (s.issued .embed) = .next ((s.issued .embed).embedAt (pack frame embedAlign) 0) :=
    (step_issued rfl).trans (embGateStep_of_le (s := s.issued .embed) hbin hf hle)
  have hrun := run_embedAt (s := s.issued .embed) (y := pack frame embedAlign) rfl hb hd hf
    (n := (pack frame embedAlign).length / 3) (by omega) (stream_fits hle)
  exact .of_step hgate (.of_run hrun (.of_last hb (step_embedAt_end (s := s.issued .embed) rfl hb hd (by omega))
    (Status.busy_completed none)))

/-- EXTRACT has found a frame of kind `k` with the payload `p`, which it has still to return. -/
def State.headerFound (s : State) (key : Bool) (k : Kind) (p : Bytes) : State :=
  (s.issued (extractWith key)).sampled.writeHeader k (BitVec.ofNat 64 p.length)

theorem endsWithin_extract_of_holds {s : State} {k : Kind} {p : Bytes} (h : HoldsFrame s.grid k p)
    (hp : p.length < 2 ^ 64) (hf : s.grid.fails = false) (key : Bool) :
    EndsWithin (s.issued (extractWith key)) (extractSteps (headerOf s.grid))
      (finishExtract key k p (s.headerFound key k p)) := by
  rw [State.headerFound, ← extractWhole_of_holds (s := s.issued (extractWith key)) h hp hf key]
  exact endsWithin_extract hf key

/-! ### HIDE -/

/-- HIDE of a kind, once BIN holds the payload (30_encoding.md R103). -/
def hideProgram (k : Kind) : List Action :=
  commandLine (buildFrameInstr k) ++ [.stopIfErr, .copyBinBout] ++ commandLine .embed

/-- From `s` EMBED has been run on `frame`, and the program goes on with `rest` in `u`. -/
structure Embedded (s u : State) (frame : Bytes) (rest : List Action) : Prop where
  script : u.host.script = rest
  busy : u.busy = false
  cfg : u.cfg = s.cfg
  grid : u.grid = s.grid.embed frame

theorem answers_embedLine {s : State} {frame : Bytes} {rest : List Action} (hb : s.busy = false)
    (hbin : s.bin = .written frame) (hs : s.host.script = commandLine .embed ++ rest) (hf : s.grid.fails = false)
    (hle : frame.length ≤ maxPayload s.grid.w s.grid.h) :
    ∃ u, Answers s (.next u) ∧ Embedded s u frame rest := by
  obtain ⟨hid, h⟩ := answers_commandLine_next rfl hb hs (endsWithin_embed hbin hf hle) (Status.done_completed none)
  exact ⟨_, h, rfl, Status.busy_completed none, rfl, rfl⟩

/-- STOPIF ERR ends the program after an error. -/
theorem answers_stopIfErr {r s : State} (h : Answers r (.next s)) {rest : List Action}
    (hs : s.host.script = .stopIfErr :: rest) (herr : s.err ≠ 0) :
    ∃ u, Answers r (.next u) ∧ u.host.script = [] ∧ u.status = s.status := by
  obtain ⟨-, hstop, -⟩ := scriptActions s rest
  exact ⟨_, h.trans ((Answers.refl _).of_step (hstop hs herr)), rfl, rfl⟩

/-- HIDE from the end of BUILD_FRAME on: STOPIF goes on, and the frame becomes EMBED's operand. -/
theorem answers_embedProgram {r s : State} (h : Answers r (.next s)) {frame : Bytes} {rest : List Action}
    (hst : s.status = 0x02) (hout : s.bout = .written frame)
    (hs : s.host.script = .stopIfErr :: .copyBinBout :: (commandLine .embed ++ rest))
    (hfit : Fits frame.length s.cfg.bufBytes) (hf : s.grid.fails = false)
    (hle : frame.length ≤ maxPayload s.grid.w s.grid.h) :
    ∃ u, Answers r (.next u) ∧ Embedded s u frame rest := by
  have hb : s.busy = false := (congrArg Status.busy hst).trans (by decide)
  have herr : s.err = 0 := (congrArg Status.err hst).trans (by decide)
  obtain ⟨-, -, hgoOn, -⟩ := scriptActions s (.copyBinBout :: (commandLine .embed ++ rest))
  obtain ⟨-, -, -, hcopy, -⟩ :=
    scriptActions (s.withScript (.copyBinBout :: (commandLine .embed ++ rest))) (commandLine .embed ++ rest)
  obtain ⟨u, hu, hscript, hbu, hcfg, hgrid⟩ := answers_embedLine (rest := rest)
    (s := { s with
      bin := .written frame, host := { script := commandLine .embed ++ rest, lastRead := some (.bytes frame) } })
    hb rfl rfl hf hle
  exact ⟨u, h.trans ((hu.of_step (hcopy frame rfl hb hout hfit)).of_step (hgoOn hs herr)), hscript, hbu, hcfg, hgrid⟩

/-- HIDE leaves an idle core and the frame in the grid. -/
theorem answers_hide {s : State} {k : Kind} {p : Bytes} {rest : List Action} (hb : s.busy = false)
    (hbin : s.bin = .written p) (hs : s.host.script = hideProgram k ++ rest) (hp : p.length < 2 ^ 64)
    (hfit : Fits (12 + p.length) s.cfg.bufBytes) (hf : s.grid.fails = false)
    (hle : 12 + p.length ≤ maxPayload s.grid.w s.grid.h) :
    ∃ u, Answers s (.next u) ∧ Embedded s u (buildFrame p k) rest := by
  have hlen := buildFrame_length p k
  obtain ⟨hid, hbuilt⟩ := answers_commandLine_next
    (rest := .stopIfErr :: .copyBinBout :: (commandLine .embed ++ rest)) (buildFrameInstr_wf k) hb hs
    (endsWithin_buildFrame k (buildFrameCommand_of_fits k (s := s.issued _) hbin hp hfit) (Status.busy_completed none))
    (Status.done_completed none)
  obtain ⟨u, hu, hscript, hbu, hcfg, hgrid⟩ := answers_embedProgram hbuilt rfl rfl rfl (hlen ▸ hfit) hf (hlen ▸ hle)
  exact ⟨u, hu, hscript, hbu, hcfg, hgrid⟩

/-! ### The round trips -/

/-- Settles O40: HIDE U leaves the frame in the grid, EXTRACT finds it and returns its payload. -/
theorem hideRevealRoundTrip : Obligations.HideRevealRoundTrip := by
  intro s b hb hf hg hle hp hfit hs
  have hfitb : Fits b.length s.cfg.bufBytes := fun m hm => (Nat.le_add_left _ _).trans (hfit m hm)
  obtain ⟨u, hu, hscript, hbu, hcfg, hgrid⟩ := answers_hide (k := .unencrypted)
    (s := s.binWritten b (hideU ++ reveal)) hb rfl rfl hp hfit hf hle
  have hholds : HoldsFrame u.grid .unencrypted b := hgrid ▸ holdsFrame_embed hg hle
  have hfu : u.grid.fails = false := by rw [hgrid]; exact hf
  have hend := endsWithin_extract_of_holds hholds hp hfu false
  have hfitu : Fits b.length u.cfg.bufBytes := hcfg ▸ hfitb
  rw [finishExtract_unencrypted, finishWithBout_of_fits (s := u.headerFound _ _ _) hfitu] at hend
  obtain ⟨hid, hrevealed⟩ := answers_commandLine_next (rest := []) (extractWith_wf false) hbu hscript hend
    (Status.done_completed none)
  obtain ⟨n, hn⟩ := (hu.trans hrevealed).of_step (step_setBin hb hs hfitb)
  exact ⟨n, _, hn, rfl, rfl, rfl, rfl, rfl⟩

/-- Of the starting state only BOUT's bound matters. -/
theorem RevealsCiphertext.congr {s t : State} {c pwd : Bytes} {r : Result} (h : RevealsCiphertext s c pwd r)
    (hcfg : s.cfg = t.cfg) : RevealsCiphertext t c pwd r := by
  rwa [RevealsCiphertext, hcfg] at h

/-- EXTRACT KEY of a grid that holds a ciphertext, by the cipher's answer. -/
theorem answers_extractKey {s : State} {c pwd : Bytes} (h : HoldsFrame s.grid .encrypted c) (hc : c.length < 2 ^ 64)
    (hf : s.grid.fails = false) (hb : s.busy = false) (hpwd : s.pwd = .written pwd)
    (hs : s.host.script = commandLine .extractKey) : ∃ r, Answers s r ∧ RevealsCiphertext s c pwd r := by
  have hend := endsWithin_extract_of_holds h hc hf true
  have hkey : (s.headerFound true .encrypted c).pwd = .written pwd := hpwd
  unfold RevealsCiphertext
  cases hd : Config.decrypt c pwd with
  | none =>
    rw [finishExtract_rejected hkey hd] at hend
    obtain ⟨hid, hfailed⟩ := answers_commandLine_next (rest := []) (extractWith_wf true) hb hs hend
      (Status.done_completed _)
    exact ⟨_, hfailed, _, rfl, rfl, Status.completed_invalidKeyOrData⟩
  | some y =>
    rw [finishExtract_decrypted hkey hd] at hend
    by_cases hfit : Fits y.length s.cfg.bufBytes
    · rw [finishWithBout_of_fits (s := s.headerFound true .encrypted c) hfit] at hend
      obtain ⟨hid, hrevealed⟩ := answers_commandLine_next (rest := []) (extractWith_wf true) hb hs hend
        (Status.done_completed none)
      exact ⟨_, hrevealed, fun _ => ⟨_, rfl, rfl, rfl, rfl, rfl, rfl⟩, fun hlong => absurd hfit hlong⟩
    · rw [finishWithBout_of_not_fits (s := s.headerFound true .encrypted c) hfit] at hend
      have hrefused := answers_commandLine_refused (rest := []) (extractWith_wf true) hb hs hend
      exact ⟨_, hrefused, fun hshort => absurd hshort hfit, fun _ => rfl⟩

section
variable {s : State} {c pwd : Bytes} (hb : s.busy = false) (hbin : s.bin = .written c)
  (hs : s.host.script = hideProgram .encrypted ++ revealKey pwd)
include hb hbin hs

/-- BUILD_FRAME E of a ciphertext in BIN, EMBED, and REVEAL KEY. -/
theorem answers_hide_revealKey (hc : c.length < 2 ^ 64) (hfit : Fits (12 + c.length) s.cfg.bufBytes)
    (hf : s.grid.fails = false) (hg : Grid.wf s.grid) (hle : 12 + c.length ≤ maxPayload s.grid.w s.grid.h) :
    ∃ r, Answers s r ∧ RevealsCiphertext s c pwd r := by
  obtain ⟨u, hu, hscript, hbu, hcfg, hgrid⟩ := answers_hide hb hbin hs hc hfit hf hle
  obtain ⟨-, -, hset, -⟩ :=
    (operandWrites u (commandLine .extractKey) 0 pwd [] (.setPwd pwd) hscript (by simp)).2 hbu
  have hholds : HoldsFrame u.grid .encrypted c := hgrid ▸ holdsFrame_embed hg hle
  have hfu : u.grid.fails = false := by rw [hgrid]; exact hf
  obtain ⟨r, hr, hreveals⟩ := answers_extractKey
    (s := { u.withScript (commandLine .extractKey) with pwd := .written pwd }) hholds hc hfu hbu rfl rfl
  exact ⟨r, hu.trans (hr.of_step (hset rfl)), hreveals.congr hcfg⟩

/-- A ciphertext too long for its length field stops the program at BUILD_FRAME (42_frame_codec.md R154). -/
theorem answers_hide_tooLong (hc : 2 ^ 64 ≤ c.length) :
    ∃ t : State, Answers s (.next t) ∧ t.host.script = [] ∧ t.status = 0x42 := by
  obtain ⟨hid, hbuilt⟩ := answers_commandLine_next
    (rest := .stopIfErr :: .copyBinBout :: (commandLine .embed ++ revealKey pwd)) (buildFrameInstr_wf .encrypted) hb hs
    (endsWithin_buildFrame .encrypted (buildFrameCommand_tooLong .encrypted (s := s.issued _) hbin hc)
      (Status.busy_completed (some .illegalCommand)))
    (Status.done_completed (some .illegalCommand))
  have herr : Status.err 0x42 ≠ 0 := by decide
  exact answers_stopIfErr hbuilt rfl herr

end

/-- Settles O41: the frame in the grid is an encrypted one, so what REVEAL KEY returns is the cipher's answer. -/
theorem encryptedHideRevealRoundTrip : Obligations.EncryptedHideRevealRoundTrip := by
  intro s c pwd hb hf hg hle hfit
  have hfitc : Fits c.length s.cfg.bufBytes := fun m hm => (Nat.le_add_left _ _).trans (hfit m hm)
  have hreveal (hc : c.length < 2 ^ 64) := answers_hide_revealKey
    (s := s.binWritten c (hideProgram .encrypted ++ revealKey pwd)) hb rfl rfl hc hfit hf hg hle
  refine ⟨fun hc hs => ?ciphertext, fun b hencrypt hfitb hs => ?plaintext⟩
  case ciphertext =>
    obtain ⟨r, hr, hreveals⟩ := hreveal hc
    obtain ⟨n, rfl⟩ := hr.of_step (step_setBin hb hs hfitc)
    exact ⟨n, hreveals⟩
  case plaintext =>
    have hset := step_setBin hb hs hfitb
    have hcipher := step_encryptToBin (s := s.binWritten b (hideE pwd ++ revealKey pwd)) hb
      (rest := hideProgram .encrypted ++ revealKey pwd) rfl rfl (hencrypt ▸ hfitc)
    rw [← hencrypt] at hcipher
    split_ifs with hc
    · obtain ⟨r, hr, hreveals⟩ := hreveal hc
      obtain ⟨n, rfl⟩ := (hr.of_step hcipher).of_step hset
      exact ⟨n, hreveals⟩
    · obtain ⟨t, ht, hstop⟩ := answers_hide_tooLong
        (s := s.binWritten c (hideProgram .encrypted ++ revealKey pwd)) hb rfl rfl (Nat.not_lt.mp hc)
      obtain ⟨n, hn⟩ := (ht.of_step hcipher).of_step hset
      exact ⟨n, t, hn, hstop⟩

end Sys2Proof.Machine
end

/-! ## Exceptions (60_exceptions.md R241 to R248, R257)

A step that completes a command leaves the grid as it was, so a command that fails could only have changed it in an
earlier step. The grid changes in EMBED past its gate alone, and from there on no error can come: `PastErrors`. -/

section
namespace Sys2Proof.Machine

/-! ### Completion (R241, R248) -/

theorem Status.reserved_completed (e : Option CmdError) :
    (Status.completed e).extractLsb' 2 2 = 0 ∧ (Status.completed e).extractLsb' 8 24 = 0 := by
  rcases e with _ | e
  · decide
  · cases e <;> decide

/-- Settles O10: the fields of the STATUS word that `complete` writes are known, and it replaces nothing but STATUS and
PHASE. -/
theorem completionWritesStatus : Obligations.CompletionWritesStatus := by
  intro s e
  obtain ⟨hlow, hhigh⟩ := Status.reserved_completed e
  refine ⟨Status.busy_completed e, Status.done_completed e, hlow, hhigh, ?_, rfl, rfl⟩
  refine (Status.err_completed e).trans ?_
  rcases e with _ | e
  · rfl
  · cases e <;> rfl

/-- The four words of a completion with an error (60_exceptions.md R240). -/
theorem Status.completed_words_of_err {e : Option CmdError} (h : Status.err (Status.completed e) ≠ 0) :
    Status.completed e = 0x12 ∨ Status.completed e = 0x22 ∨ Status.completed e = 0x32 ∨
      Status.completed e = 0x42 :=
  (Status.completed_words e).resolve_left fun hok => h (by rw [hok]; decide)

/-- Settles O11: a step after which no command runs has completed one, and then the grid is as it was; the rest is
outside every command's frame. -/
theorem errorEntryIsPrecise : Obligations.ErrorEntryIsPrecise := by
  intro i s t hs h hidle herr
  obtain ⟨hgw, hgh, hpwd, hbin, hsin, hcfg, hhost, -⟩ := commandsWriteOnlyTheirRegisters i s t h
  obtain ⟨⟨e, hst⟩, hphase, hgrid⟩ | ⟨⟨hst, -⟩, -⟩ := exec_completes_or_runsOn h
  · rw [State.err, hst] at herr
    exact ⟨hgrid, hgw, hgh, hpwd, hbin, hsin, hcfg, hhost, hphase, hst ▸ Status.completed_words_of_err herr⟩
  · rw [State.busy, hst, hs, ← Status.running_eq, Status.busy_running] at hidle
    cases hidle

/-! ### No partial writes (R243) -/

/-- No error can come any more: the last command has completed without one, or EMBED runs and is past its gate. -/
def PastErrors (s : State) : Prop :=
  (s.busy = false ∧ s.err = 0) ∨ (s.busy = true ∧ decode s.hid.opw = .ok .embed ∧ s.hid.phase = .embWrite)

theorem embWriteStep_pastErrors {s t : State} (hb : s.busy = true) (hd : decode s.hid.opw = .ok .embed)
    (hp : s.hid.phase = .embWrite) (h : embWriteStep s = .next t) : PastErrors t := by
  obtain ⟨-, rfl⟩ | ⟨-, _, -, rfl⟩ := embWriteStep_next h
  · exact .inl ⟨State.busy_complete s none, State.err_complete s none⟩
  · exact .inr ⟨hb, hd, hp⟩

/-- A step of the running command leaves the grid as it was, unless it is one of EMBED past its gate. -/
theorem exec_grid_or_pastErrors {i : Instr} {s t : State} (hb : s.busy = true) (hd : decode s.hid.opw = .ok i)
    (h : exec i s = .next t) : t.grid = s.grid ∨ PastErrors t := by
  by_cases hi : i = .embed
  · subst hi
    obtain ⟨hp, he⟩ | ⟨-, he⟩ := execEmbed_cases s
    · exact .inr (embWriteStep_pastErrors hb hd hp (he.symm.trans h))
    · obtain ⟨_, -, -, ⟨-, rfl⟩ | ⟨-, rfl⟩⟩ := embGateStep_next (he.symm.trans h) <;> exact .inl rfl
  · exact .inl (onlyEmbedWritesTheGrid i s t h hi)

theorem coreTurn_grid_or_pastErrors {s t : State} (h : coreTurn s = .next t) : t.grid = s.grid ∨ PastErrors t := by
  obtain ⟨-, rfl⟩ | ⟨hb, rfl | ⟨i, hd, he⟩⟩ := coreTurn_next h
  · exact .inl rfl
  · exact .inl rfl
  · exact exec_grid_or_pastErrors hb hd he

theorem coreTurn_keeps_pastErrors {s t : State} (hs : PastErrors s) (h : coreTurn s = .next t) : PastErrors t := by
  obtain ⟨hb, herr⟩ | ⟨hb, hd, hp⟩ := hs
  · rw [coreTurn, hb] at h
    cases h
    exact .inl ⟨hb, herr⟩
  · rw [coreTurn_running hb hd, exec_embed_write hp] at h
    exact embWriteStep_pastErrors hb hd hp h

/-- With no other agent's action left, the grid stays as it is as long as an error can come. -/
theorem run_grid_or_pastErrors {g : Grid} {s t : State} {n : Nat} (hs : s.host.script = [])
    (hg : s.grid = g ∨ PastErrors s) (h : Host.Core.run core n s = .next t) : t.grid = g ∨ PastErrors t := by
  induction n generalizing s with
  | zero => cases h; exact hg
  | succ n ih =>
    obtain ⟨u, hu, h⟩ := step_of_run_succ (M := core) h
    have hturn : coreTurn s = .next u := (step_of_no_script hs).symm.trans hu
    refine ih (step_keeps_no_script hs hu) ?_ h
    obtain rfl | hpast := hg
    · exact coreTurn_grid_or_pastErrors hturn
    · exact .inr (coreTurn_keeps_pastErrors hpast hturn)

/-- The step that takes a word is the core's turn on the state in which the word's command starts. -/
theorem issue_eq_coreTurn (w : Word) (s : State) : ∃ p, issue w s = coreTurn (s.accept w p) := by
  cases hd : decode w with
  | error e => exact ⟨.idle, by simp [issue_illegal hd, coreTurn, hd]⟩
  | ok i => exact ⟨startPhase i, by rw [issue_legal hd, coreTurn_running (State.busy_accept _ _ _) hd]⟩

/-- Settles O45: by induction over the steps from the command's start, the grid is the old one or no error can come. -/
theorem errorsLeaveTheGrid : Obligations.ErrorsLeaveTheGrid := by
  intro s t w n hb hs hn h hidle herr
  obtain ⟨n, rfl⟩ : ∃ m, n = m + 1 := ⟨n - 1, by omega⟩
  obtain ⟨p, hissue⟩ := issue_eq_coreTurn w (s.withScript [])
  have hstep : step s = step ((s.withScript []).accept w p) := by
    rw [step_setCmd_idle hs hb, hissue, step_of_no_script (by simp)]
  have hrun : Host.Core.run core (n + 1) s = Host.Core.run core (n + 1) ((s.withScript []).accept w p) :=
    run_succ_of_step_eq (M := core) hstep
  rw [hrun] at h
  obtain hgrid | ⟨-, hok⟩ | ⟨hbusy, -⟩ := run_grid_or_pastErrors (n := n + 1)
    (s := (s.withScript []).accept w p) rfl (.inl rfl) h
  · exact hgrid
  · exact absurd hok herr
  · simp [hidle] at hbusy

/-! ### A collaborator that fails its calls (R244) -/

section
variable {s : State} (hf : s.grid.fails = true)
include hf

theorem withGeometry_fails (k : State → Result) : withGeometry s k = .fault .collaboratorFailure :=
  if_pos hf

theorem memRead_fails (i : Nat) (k : Pixel → Result) : memRead s i k = .fault .collaboratorFailure := by
  simp [memRead, Grid.get, hf]

theorem embGateStep_fails {frame : Bytes} (hbin : s.bin = .written frame) :
    embGateStep s = .fault .collaboratorFailure := by
  rw [embGateStep, operand_eq_of_written hbin, withGeometry_fails hf]

theorem embWriteStep_fails (hk : s.hid.k ≠ s.hid.stream.length) : embWriteStep s = .fault .collaboratorFailure := by
  rw [embWriteStep, if_neg hk, memRead_fails hf]

/-- A scan calls the collaborator at the first channel of a pixel. -/
theorem nextSymbol_fails (hk : s.hid.k % 3 = 0) (k : State → Result) :
    nextSymbol s k = .fault .collaboratorFailure := by
  rw [nextSymbol, if_pos hk, memRead_fails hf]

end

/-- Settles O54: the first thing each of these steps does, past an operand or the test for its end, is a call. -/
theorem collaboratorFailureFaults : Obligations.CollaboratorFailureFaults := by
  intro s hf
  refine ⟨fun frame hp hbin => ?gate, fun hp hk => ?write, fun key hp => ?size, fun key hp hk => ?header,
    fun key hp hmore hk => ?payload⟩
  case gate => rw [exec_embed_gate hp, embGateStep_fails hf hbin]
  case write => rw [exec_embed_write hp, embWriteStep_fails hf hk]
  case size => rw [exec_extractWith, extractStep_extSize hp, extSizeStep, withGeometry_fails hf]
  case header => rw [exec_extractWith, extractStep_extHdr hp, extHdrStep, nextSymbol_fails hf hk]
  case payload => rw [exec_extractWith, extractStep_extPay hp, extPayStep, if_neg hmore, nextSymbol_fails hf hk]

/-! ### The host's read of a register still UNWRITTEN (R257; log entry 5) -/

/-- `v` is a value of the domain of register `r` (10_state.md R21), for the registers that may be UNWRITTEN. -/
def ReadReg.InDomain (cfg : Config) (r : ReadReg) (v : HostValue) : Prop :=
  (r = .gw ∨ r = .gh → ∃ n, v = .nat n ∧ ∀ d, cfg.dimBits = some d → n < 2 ^ d) ∧
  (r = .cap → ∃ n, v = .nat n) ∧ (r = .kind → ∃ k, v = .bit k) ∧ (r = .plen → ∃ n, v = .length n) ∧
  (r = .bin ∨ r = .bout → ∃ b, v = .bytes b ∧ Fits b.length cfg.bufBytes) ∧
  (r = .sin ∨ r = .sout → ∃ y, v = .syms y ∧ Fits y.length cfg.bufSyms)

theorem freeSymsIn_fits (s : State) : Fits s.freeSymsIn.length s.cfg.bufSyms :=
  withinBound_iff.mp (withinBound_cutToBound _ _)

theorem freeValue_inDomain (s : State) (r : ReadReg) : r.InDomain s.cfg (freeValue s r) := by
  refine ⟨?dim, ?cap, ?kind, ?plen, ?bytes, ?syms⟩
  case dim => rintro (rfl | rfl) <;> exact ⟨_, rfl, fun _ => State.freeDimIn_lt⟩
  case cap | kind | plen => rintro rfl; exact ⟨_, rfl⟩
  case bytes => rintro (rfl | rfl) <;> exact ⟨_, rfl, freeBytesIn_fits s⟩
  case syms => rintro (rfl | rfl) <;> exact ⟨_, rfl, freeSymsIn_fits s⟩

/-- Where no stored value is read the host gets a free one, and only the counter of the free values moves. -/
theorem hostValue_of_free {s : State} {r : ReadReg} (h : (s.busy && r.isResult) = true ∨ storedValue s r = none) :
    hostValue s r = (freeValue s r, { s with draws := s.draws + 1 }) := by
  obtain ⟨v, hb, hv, -⟩ | ⟨-, hfree⟩ := hostValue_cases s r
  · simp [hb, hv] at h
  · exact hfree

theorem hostRead_of_free {s : State} {r : ReadReg} (h : (s.busy && r.isResult) = true ∨ storedValue s r = none) :
    hostRead s r =
      (freeValue s r,
        { s with draws := s.draws + 1, host := { s.host with lastRead := some (freeValue s r) } }) := by
  rw [hostRead, hostValue_of_free h]

theorem storedValue_withScript (s : State) (l : List Action) (r : ReadReg) :
    storedValue (s.withScript l) r = storedValue s r := by
  cases r <;> rfl

/-- A GET that no stored value answers. -/
theorem step_get_of_free {s : State} {rest : List Action} {r : ReadReg} (hs : s.host.script = .get r :: rest)
    (h : (s.busy && r.isResult) = true ∨ storedValue s r = none) :
    ∃ v, step s = .next { s with draws := s.draws + 1, host := { script := rest, lastRead := some v } } ∧
      r.InDomain s.cfg v := by
  refine ⟨freeValue (s.withScript rest) r, ?_, freeValue_inDomain (s.withScript rest) r⟩
  rw [step_of_script hs, act, hostGet, hostRead_of_free (by rwa [storedValue_withScript, State.busy_withScript])]
  rfl

section
variable {s : State} (hb : s.busy = false)
include hb

/-- COPY while no command runs, from a BOUT still UNWRITTEN. -/
theorem copyBinBout_unwritten (hout : s.bout = .unwritten) :
    copyBinBout s = .next
      { s with
        bin := .written s.freeBytesIn
        draws := s.draws + 1
        host := { s.host with lastRead := some (.bytes s.freeBytesIn) } } := by
  rw [copyBinBout, hostRead_of_free (.inr (by simp [storedValue, hout]))]
  exact hostSetBin_idle hb (freeBytesIn_fits s)

/-- ENCRYPT of BIN while no command runs, from a BIN still UNWRITTEN. -/
theorem encryptToBin_unwritten {pwd : Bytes} (hbin : s.bin = .unwritten)
    (hfit : Fits (Config.encrypt s.freeBytesIn pwd).length s.cfg.bufBytes) :
    encryptToBin .bin pwd s = .next
      { s with bin := .written (Config.encrypt s.freeBytesIn pwd), draws := s.draws + 1 } := by
  rw [encryptToBin, hostValue_of_free (.inr (by simp [storedValue, hbin]))]
  exact hostSetBin_idle hb hfit

end

/-- Settles O58: a register still UNWRITTEN has no stored value, and a free value is in its register's domain. -/
theorem unwrittenRegisterRead : Obligations.UnwrittenRegisterRead := by
  intro s rest
  refine ⟨fun r hs hr => step_get_of_free hs (.inr ?get), fun hs hb hout => ⟨s.freeBytesIn, freeBytesIn_fits s, ?copy⟩,
    fun pwd hs hb hbin => ⟨s.freeBytesIn, freeBytesIn_fits s, fun hfit => ?encrypt⟩⟩
  case get =>
    obtain ⟨rfl, h⟩ | ⟨rfl, h⟩ | ⟨rfl, h⟩ | ⟨rfl, h⟩ | ⟨rfl, h⟩ | ⟨rfl, h⟩ | ⟨rfl, h⟩ | ⟨rfl, h⟩ | ⟨rfl, h⟩ := hr <;>
      simp [storedValue, h]
  case copy =>
    rw [step_of_script hs]
    exact copyBinBout_unwritten (s := s.withScript rest) hb hout
  case encrypt =>
    rw [step_of_script hs]
    exact encryptToBin_unwritten (s := s.withScript rest) hb hbin hfit

end Sys2Proof.Machine
end

/-! ## Reset, result reads while BUSY, and the end of every command (70_reset_and_hazards.md R271, R272, R283, R287)

That EMBED and EXTRACT end is read off their runs, followed above; every other command completes in its one step. After
a reset the grid holds `memAfterReset`, whose pixels `Memory.readPixel_embedPixels` gives. -/

section
namespace Sys2Proof.Machine

/-! ### Every command ends (R287) -/

theorem settled_of_visibleResult {r : Result} {t : State} (h : visibleResult r = .next t) (ht : t.busy = false) :
    Settled r := by
  cases r with
  | next u => cases h; exact ht
  | fault | refused => trivial

theorem Completes.settled {s t : State} (h : Completes s t) : Settled (.next t) := by
  obtain ⟨e, he⟩ := h.status
  exact (congrArg Status.busy he).trans (Status.busy_completed e)

/-- A command without a phase of its own runs no more after its one step. -/
theorem settled_exec_of_oneStep {i : Instr} (hi : startPhase i = .idle) (s : State) : Settled (exec i s) := by
  cases h : exec i s with
  | next t => exact (exec_completes hi h).settled
  | fault | refused => trivial

theorem startPhase_eq_idle {i : Instr} (hm : i ≠ .embed) (hx : i ≠ .extract) (hk : i ≠ .extractKey) :
    startPhase i = .idle := by
  cases i with
  | embed => exact absurd rfl hm
  | extract => exact absurd rfl hx
  | extractKey => exact absurd rfl hk
  | nop | pack _ | unpack | buildFrameU | buildFrameE | parseHeader | maxPayload | checkCapacity => rfl

/-- An illegal word completes at once, and so does every command but EMBED and EXTRACT. -/
theorem settled_issue {w : Word} (hm : decode w ≠ .ok .embed) (hx : decode w ≠ .ok .extract)
    (hk : decode w ≠ .ok .extractKey) (s : State) : Settled (issue w s) := by
  cases hd : decode w with
  | error e =>
    rw [issue_illegal hd]
    exact State.busy_complete _ _
  | ok i =>
    rw [issue_legal hd]
    refine settled_exec_of_oneStep (startPhase_eq_idle ?_ ?_ ?_) _ <;> rintro rfl
    · exact hm hd
    · exact hx hd
    · exact hk hd

section
variable {s : State} (hb : s.busy = false) (hf : s.grid.fails = false)
include hb hf

/-- EMBED ends at its gate or, once past it, after the stream's pixels (44_embedder.md R197). -/
theorem embed_ends {frame : Bytes} (hs : s.host.script = [.setCmd (encode .embed)]) (hbin : s.bin = .written frame) :
    ∃ n, 1 ≤ n ∧ n ≤ 2 + (4 * frame.length + 2) / 3 ∧ Settled (Host.Core.run core n s) := by
  have hword : encode .embed = 0x00000007 := by decide
  have hlen := pack_embedAlign_length frame
  obtain ⟨htooLong, hfits⟩ := embedStepFormAgreesWithWhole s frame hb (hword ▸ hs) hf hbin
  rcases Nat.lt_or_ge (maxPayload s.grid.w s.grid.h) frame.length with hlt | hle
  · exact ⟨1, le_rfl, by omega,
      settled_of_visibleResult (htooLong hlt) (Status.busy_completed (some .capacityExceeded))⟩
  · obtain ⟨-, hend, -⟩ := hfits hle
    exact ⟨1 + (pack frame embedAlign).length / 3 + 1, by omega, by omega,
      settled_of_visibleResult hend (Status.busy_completed none)⟩

/-- EXTRACT ends within the bound of the header it finds (45_extractor.md R225). -/
theorem extract_ends {key : Bool} (hs : s.host.script = [.setCmd (encode (extractWith key))]) :
    ∃ n, 1 ≤ n ∧ n ≤ extractSteps (headerOf s.grid) ∧ Settled (Host.Core.run core n s) := by
  rw [encode_extractWith] at hs
  obtain ⟨n, h1, hn, -, hsettled, -⟩ := extractStepFormAgreesWithWhole s key hb hs hf
  refine ⟨n, h1, ?_, hsettled⟩
  revert hn
  cases headerOf s.grid <;> exact id

end

/-- Settles O46: a command other than EMBED and EXTRACT ends in the step that takes its word; these two end as their
step forms do. -/
theorem everyCommandEnds : Obligations.EveryCommandEnds := by
  intro s w hb hs hf
  refine ⟨fun hm hx hk => ?oneStep, fun frame hd hbin => ?embed, fun hd => ?extract⟩
  case oneStep =>
    rw [run_one core s]
    exact (congrArg Settled (step_setCmd_idle hs hb)).mpr (settled_issue hm hx hk _)
  case embed =>
    obtain ⟨-, rfl⟩ := encode_of_decode hd
    exact embed_ends hb hf hs hbin
  case extract =>
    obtain ⟨key, hd⟩ : ∃ key, decode w = .ok (extractWith key) := hd.elim (⟨false, ·⟩) (⟨true, ·⟩)
    obtain ⟨-, rfl⟩ := encode_of_decode hd
    obtain ⟨n, h1, hn, hsettled⟩ := extract_ends hb hf hs
    refine ⟨n, h1, hn.trans ?_, hsettled⟩
    cases headerOf s.grid with
    | none => exact show 50 ≤ 48 + 53 by decide
    | some header => exact le_rfl

/-! ### The reset event (R271, R272) -/

theorem step_reset {s : State} {rest : List Action} (hs : s.host.script = .reset :: rest) :
    step s = .next (s.withScript rest).doReset := by
  rw [step_of_script hs, act]

theorem memAfterReset_of_not_writing {s : State} (h : ¬(s.busy = true ∧ s.hid.phase = .embWrite)) :
    memAfterReset s = s.grid.mem :=
  if_neg h

/-- Past EMBED's gate a reset leaves some number of the stream's pixels written (log entry 10). -/
theorem memAfterReset_of_writing {s : State} (hb : s.busy = true) (hp : s.hid.phase = .embWrite) :
    ∃ j, j ≤ s.hid.stream.length / 3 ∧ memAfterReset s = embedPixels s.hid.stream s.hid.memBefore j :=
  ⟨Config.freeNat s.draws % (s.hid.stream.length / 3 + 1), Nat.lt_succ_iff.mp (Nat.mod_lt _ (Nat.succ_pos _)),
    if_pos ⟨hb, hp⟩⟩

/-- A pixel before the `n`-th is a new one, and the others are old (44_embedder.md R193, R194). -/
theorem Memory.readPixel_embedPixels {m : Memory} (hm : Memory.wf m) (y : Syms) (n i : Nat) :
    Memory.readPixel (embedPixels y m n) i =
      if i < n then embedPixel y (3 * i) (Memory.readPixel m i) else Memory.readPixel m i := by
  simp only [Memory.readPixel, Memory.read_embedPixels hm]
  split
  · next hi => rw [if_pos (by omega), if_pos (by omega), if_pos (by omega)]; rfl
  · next hi => rw [if_neg (by omega), if_neg (by omega), if_neg (by omega)]

/-- Settles O50: a reset puts every register at its reset value, and the grid it leaves is the old one or, past EMBED's
gate, the bytes at the gate with the stream's first pixels written. -/
theorem resetEvent : Obligations.ResetEvent := by
  intro s rest hs
  refine ⟨_, step_reset hs, rfl, rfl, rfl, rfl, rfl, rfl, rfl, rfl, rfl, rfl, rfl, rfl, rfl, rfl, rfl, rfl,
    fun hunused => ?kept, fun hb hp hwf => ?written⟩
  case kept =>
    exact congrArg (fun m => { s.grid with mem := m }) (memAfterReset_of_not_writing (s := s.withScript rest) hunused)
  case written =>
    obtain ⟨j, hj, hmem⟩ := memAfterReset_of_writing (s := s.withScript rest) hb hp
    exact ⟨j, hj, fun i => (congrArg (Memory.readPixel · i) hmem).trans (Memory.readPixel_embedPixels hwf _ j i)⟩

/-! ### Result registers read while BUSY (R283) -/

/-- Settles O57: while BUSY no stored value answers a read of a result register, and a free value is in its register's
domain. -/
theorem resultReadWhileBusy : Obligations.ResultReadWhileBusy := by
  intro s rest r hb hs hr
  have hresult : r.isResult = true := by obtain rfl | rfl | rfl | rfl | rfl := hr <;> rfl
  obtain ⟨v, hstep, -, hcap, hkind, hplen, hbytes, hsyms⟩ := step_get_of_free hs (.inl (by rw [hb, hresult]; rfl))
  exact ⟨v, hstep, hcap, hkind, hplen, fun h => hbytes (.inr h), fun h => hsyms (.inr h)⟩

end Sys2Proof.Machine
end
